-- ==== Sys2Proof/Word.lean ====
section
/-! DEFINITION. The words of the block: bytes, 10-bit samples, request words, and the 3-byte frames of the exchange. -/

namespace Sys2Proof

/-- A byte: an unsigned 8-bit value (00_scope.md R10). -/
abbrev Byte := BitVec 8

/-- A raw sample: an unsigned 10-bit value (00_scope.md R8 `RES_BITS`, R14). -/
abbrev Sample := BitVec 10

/-- A request word, REQ: 32 bits (30_encoding.md R84). -/
abbrev ReqWord := BitVec 32

/-- A caller's number (60_exceptions.md R196). A key, never shifted or masked, hence a `Nat`. -/
abbrev CallerId := Nat

/-- Three bytes counted from 0: a command or a reply (20_memory.md R51, R55). -/
structure Bytes3 where
  b0 : Byte
  b1 : Byte
  b2 : Byte
  deriving DecidableEq, Repr, Inhabited

end Sys2Proof
end

