-- ==== Sys2Proof/Config.lean ====
section
/-! DEFINITION. The fixed parameters of the block (00_scope.md R8), the parameters the spec leaves open (R9), the answers
its collaborators may give, and the free values: constants with no body, so that no proof can see what they are. -/

namespace Sys2Proof

/-! ### Fixed parameters, 00_scope.md R8 -/

/-- `N_LINES`: the input lines are 0 to 7. -/
abbrev Config.nLines : Nat := 8
/-- `N_SE`: the single-ended channels. -/
abbrev Config.nSe : Nat := 8
/-- `N_DIFF`: the differential channels. -/
abbrev Config.nDiff : Nat := 8
/-- `N_CHAN`: the channel descriptors. -/
abbrev Config.nChan : Nat := 16
/-- `XFER_LEN`: the bytes out, and the bytes in, of one transfer. `Bytes3` has as many fields. -/
abbrev Config.xferLen : Nat := 3
/-- `RID_W`: the width of a register id. -/
abbrev Config.ridWidth : Nat := 8
/-- `LINE_W`: the width of the line field of a register id. -/
abbrev Config.lineWidth : Nat := 3
/-- `RES_BITS`: the width of a raw sample. -/
abbrev Config.resBits : Nat := 10
/-- `SCALE_EXP`: the denominator exponent of the scale factor (42_voltage_scaler.md R167). -/
abbrev Config.scaleExp : Nat := 10
/-- `START_BYTE`: command byte 0 (30_encoding.md R71). -/
abbrev Config.startByte : Byte := 0x01

/-! ### Open parameters, 00_scope.md R9 -/

/-- The default of `FILLER_BYTE` (D5). The parameter itself is in State. -/
abbrev Config.fillerDefault : Byte := 0x00
/-- The default of `VREF_W` (D17). The parameter itself is in State. -/
abbrev Config.vrefWidthDefault : Nat := 32
/-- `TERR_W` of the reset state, OPEN (D16; assumption log 7). The parameter itself is in State. -/
opaque Config.terrWidth : Nat
/-- `RERR_W` of the reset state, OPEN (D17; assumption log 7). The parameter itself is in State. -/
opaque Config.rerrWidth : Nat
/-- `N_CALLERS` of the reset state is one more than this: OPEN, at least 1 (D24; assumption log 6). The parameter itself is
in State. -/
opaque Config.moreCallers : Nat

/-- The two orders in which the bits of a byte can cross the wire. -/
inductive BitOrder where
  | msbFirst
  | lsbFirst
  deriving DecidableEq, Repr, Inhabited

/-- `WIRE_BIT_ORDER`, OPEN (D25); no rule reads it (20_memory.md R53; assumption log 8). -/
opaque Config.wireBitOrder : BitOrder
/-- `DETACH_DISABLES_REGULATOR`, OPEN (D19); no rule reads it (70_reset_and_hazards.md R223; assumption log 8). -/
opaque Config.detachDisablesRegulator : Bool
/-- `DEVICE_NAME`, OPEN (D28); no rule reads it (10_state.md R43; assumption log 8). -/
opaque Config.deviceName : String

/-! ### The collaborators' answers -/

/-- A transport error code (10_state.md R39). Opaque to the block, which does no arithmetic on it, hence a `Nat`; a draw
gives it `TERR_W` bits. -/
abbrev TransportCode := Nat
/-- A regulator error code (10_state.md R42), likewise of `RERR_W` bits. -/
abbrev RegulatorCode := Nat
/-- A reference voltage in millivolts: an unsigned natural (92_eei_decisions.md D17), likewise of `VREF_W` bits. -/
abbrev Millivolts := Nat

/-- What one `Xfer` returns: exactly three bytes, or a code (10_state.md R39). -/
inductive XferAnswer where
  | ok  (reply : Bytes3)
  | err (code : TransportCode)
  deriving DecidableEq, Repr, Inhabited

/-- What one `RegulatorMv` returns (10_state.md R42). -/
inductive MvAnswer where
  | ok  (mv : Millivolts)
  | err (code : RegulatorCode)
  deriving DecidableEq, Repr, Inhabited

/-- What one `RegulatorEnable` returns (10_state.md R42). -/
inductive EnableAnswer where
  | ok
  | err (code : RegulatorCode)
  deriving DecidableEq, Repr, Inhabited

/-- The two handles an instance borrows (10_state.md R34, R44). A handle is opaque to the block: here a bare number that
nothing but attach and detach writes (assumption log 9). -/
structure Handles where
  transport : Nat
  regulator : Nat
  deriving DecidableEq, Repr, Inhabited

/-- The steps of one device: exactly the rows of 60_exceptions.md R197. Which one is taken next, and when, is the
environment's choice. The result of a `complete` is not part of the event: it is drawn when the step is taken. -/
inductive Event where
  /-- Caller `c` issues request word `w`. -/
  | issue    (c : CallerId) (w : ReqWord)
  /-- Caller `c` takes the lock and its transfer is issued. -/
  | acquire  (c : CallerId)
  /-- The transport completes the outstanding transfer of caller `c`. -/
  | complete (c : CallerId)
  /-- Caller `c` takes its response. -/
  | take     (c : CallerId)
  /-- The host attaches a device with the given handles. -/
  | attach   (h : Handles)
  /-- The host detaches the device. -/
  | detach
  deriving DecidableEq, Repr, Inhabited

/-! ### Free values (assumption logs 3 and 4): draw number `n` of each kind -/

/-- The transport's answer number `n` (10_state.md R39: "a draw"). -/
opaque Config.freeXfer : Nat → XferAnswer
/-- The regulator's millivolt answer number `n` (10_state.md R42: "a draw"). -/
opaque Config.freeMv : Nat → MvAnswer
/-- The regulator's enable answer number `n` (10_state.md R42: "a draw"). -/
opaque Config.freeEnable : Nat → EnableAnswer
/-- The environment's choice of the next step number `n` (60_exceptions.md R197: "Any enabled step may be taken next"). -/
opaque Config.freeEvent : Nat → Event
/-- The reply that `State.withFetchWord` has the transport answer a placed wire command with (assumption log 2). -/
opaque Config.placedReply : Bytes3
/-- The handles the instance of the reset state was attached with (10_state.md R44; assumption log 9). -/
opaque Config.resetHandles : Handles

end Sys2Proof
end

