-- ==== Sys2Proof/Syntax.lean ====
section
/-! DEFINITION. The instructions: the six requests of the REQ format and the sixteen wire commands of the CMD24 format,
one constructor for each row of the opcode table. -/

namespace Sys2Proof

/-- A channel descriptor (10_state.md R31). The fields are bytes, so that a malformed descriptor can be written down. -/
structure Desc where
  /-- true = differential, false = single-ended -/
  diff : Bool
  primary : Byte
  pair : Option Byte
  deriving DecidableEq, Repr, Inhabited

/-- The single-ended descriptor `se(p)` (30_encoding.md R89). -/
abbrev Desc.se (p : Byte) : Desc := ⟨false, p, none⟩
/-- The differential descriptor `diff(p,q)` (30_encoding.md R89). -/
abbrev Desc.df (p q : Byte) : Desc := ⟨true, p, some q⟩

/-- The instructions of the opcode table. -/
inductive Instr where
  -- REQ: the block's own requests, 30_encoding.md R85 and R86
  | encodeCommand (rid : Byte)
  | decodeReply (r0 r1 r2 : Byte)
  | registerIdFor (line : Byte) (se : Bool)
  | performTransaction (rid : Byte)
  | readRaw (d : Desc)
  | readScale (d : Desc)
  -- CMD24: the wire commands, 30_encoding.md R76; the filler byte is the command's byte 2 (R72)
  | sampleSE0 (filler : Byte)
  | sampleSE1 (filler : Byte)
  | sampleSE2 (filler : Byte)
  | sampleSE3 (filler : Byte)
  | sampleSE4 (filler : Byte)
  | sampleSE5 (filler : Byte)
  | sampleSE6 (filler : Byte)
  | sampleSE7 (filler : Byte)
  | sampleDIFF0_1 (filler : Byte)
  | sampleDIFF1_0 (filler : Byte)
  | sampleDIFF2_3 (filler : Byte)
  | sampleDIFF3_2 (filler : Byte)
  | sampleDIFF4_5 (filler : Byte)
  | sampleDIFF5_4 (filler : Byte)
  | sampleDIFF6_7 (filler : Byte)
  | sampleDIFF7_6 (filler : Byte)
  deriving DecidableEq, Repr, Inhabited

end Sys2Proof
end

