-- ==== Sys2Proof/Decode.lean ====
section
/-! DEFINITION. The encodings: the REQ word (30_encoding.md R84 to R87), the CMD command (R70, R74, R76) and the 24-bit
packing of a frame (20_memory.md R54). The decoder first, total and rejecting by name; then the encoder, written from the
same tables. -/

namespace Sys2Proof

/-- An encoded instruction: a request word, or the three bytes of a wire command. -/
inductive Code where
  | req (w : ReqWord)
  | cmd (c : Bytes3)
  deriving DecidableEq, Repr

/-- Why a request word is refused (30_encoding.md R87). -/
inductive ReqError where
  /-- `reserved_op`: bits 31:29 are 110 or 111. -/
  | reservedOp
  /-- `reserved_bit_set`: a bit that R86 does not list for the operation is 1. -/
  | reservedBitSet
  /-- `pair_without_hp`: READ_RAW or READ_SCALE with `hp` = 0 and `pair` not 0. -/
  | pairWithoutHp
  deriving DecidableEq, Repr

/-- Why a 3-byte command is no row of the table of 30_encoding.md R76. Such a command is still sent (R80); it only is no
instruction of the opcode table. -/
inductive CmdError where
  | badStartByte
  | unlistedRid
  deriving DecidableEq, Repr

/-- Why an encoded instruction is not decoded. -/
inductive DecodeError where
  | badReq (e : ReqError)
  | badCmd (e : CmdError)
  deriving DecidableEq, Repr

/-! ### The request word -/

/-- `op`, bits 31:29 (30_encoding.md R84). -/
def ReqWord.op (w : ReqWord) : BitVec 3 := w.extractLsb' 29 3
/-- Bits 23:16: `r0` or `primary` (30_encoding.md R86). -/
def ReqWord.byte2 (w : ReqWord) : Byte := w.extractLsb' 16 8
/-- Bits 15:8: `r1`, `line` or `pair` (30_encoding.md R86). -/
def ReqWord.byte1 (w : ReqWord) : Byte := w.extractLsb' 8 8
/-- Bits 7:0: `rid` or `r2` (30_encoding.md R86). -/
def ReqWord.byte0 (w : ReqWord) : Byte := w.extractLsb' 0 8
/-- `diff`, bit 28 (30_encoding.md R86). -/
def ReqWord.diffBit (w : ReqWord) : Bool := w.getLsbD 28
/-- `hp`, bit 27 (30_encoding.md R86). -/
def ReqWord.hpBit (w : ReqWord) : Bool := w.getLsbD 27
/-- `se`, bit 0 (30_encoding.md R86). -/
def ReqWord.seBit (w : ReqWord) : Bool := w.getLsbD 0

/-- The reserved bits of each operation below `op`: the bits 28:0 that 30_encoding.md R86 does not list for it. -/
def reservedMask : BitVec 3 → ReqWord
  | 0 => 0x1FFFFF00  -- ENCODE_COMMAND: rid 7:0
  | 1 => 0x1F000000  -- DECODE_REPLY: r0 23:16, r1 15:8, r2 7:0
  | 2 => 0x1FFF00FE  -- REGISTER_ID_FOR: line 15:8, se 0
  | 3 => 0x1FFFFF00  -- PERFORM_TRANSACTION: rid 7:0
  | 4 => 0x070000FF  -- READ_RAW: diff 28, hp 27, primary 23:16, pair 15:8
  | 5 => 0x070000FF  -- READ_SCALE: as READ_RAW
  | _ => 0

/-- Whether some reserved bit of the word's operation is 1 (30_encoding.md R86). -/
def reservedBitIsSet (w : ReqWord) : Bool := w &&& reservedMask w.op != 0

/-- `hp` = 0 with a nonzero `pair` (30_encoding.md R86: "must be 0 when hp = 0"). -/
def pairWithoutHpBit (w : ReqWord) : Bool := !w.hpBit && w.byte1 != 0

/-- The descriptor of a READ_RAW or READ_SCALE word (30_encoding.md R86). -/
def descOf (w : ReqWord) : Desc :=
  ⟨w.diffBit, w.byte2, if w.hpBit then some w.byte1 else none⟩

/-- The request decoder: total on all 2^32 words (30_encoding.md R87). A reserved `op` has no reserved bits of its own.
Where more than one condition of R87 holds, the reason is the first in R87's order (assumption log 12). -/
def decodeReq (w : ReqWord) : Except ReqError Instr :=
  if reservedBitIsSet w then .error .reservedBitSet
  else match w.op with
    | 0 => .ok (.encodeCommand w.byte0)
    | 1 => .ok (.decodeReply w.byte2 w.byte1 w.byte0)
    | 2 => .ok (.registerIdFor w.byte1 w.seBit)
    | 3 => .ok (.performTransaction w.byte0)
    | 4 => if pairWithoutHpBit w then .error .pairWithoutHp else .ok (.readRaw (descOf w))
    | 5 => if pairWithoutHpBit w then .error .pairWithoutHp else .ok (.readScale (descOf w))
    | _ => .error .reservedOp

/-! ### The wire command -/

/-- The command decoder: the sixteen commands of 30_encoding.md R76, with any filler (R72). -/
def decodeCmd (c : Bytes3) : Except CmdError Instr :=
  if c.b0 != Config.startByte then .error .badStartByte
  else match c.b1.toNat with
    | 0x80 => .ok (.sampleSE0 c.b2)
    | 0x90 => .ok (.sampleSE1 c.b2)
    | 0xA0 => .ok (.sampleSE2 c.b2)
    | 0xB0 => .ok (.sampleSE3 c.b2)
    | 0xC0 => .ok (.sampleSE4 c.b2)
    | 0xD0 => .ok (.sampleSE5 c.b2)
    | 0xE0 => .ok (.sampleSE6 c.b2)
    | 0xF0 => .ok (.sampleSE7 c.b2)
    | 0x00 => .ok (.sampleDIFF0_1 c.b2)
    | 0x10 => .ok (.sampleDIFF1_0 c.b2)
    | 0x20 => .ok (.sampleDIFF2_3 c.b2)
    | 0x30 => .ok (.sampleDIFF3_2 c.b2)
    | 0x40 => .ok (.sampleDIFF4_5 c.b2)
    | 0x50 => .ok (.sampleDIFF5_4 c.b2)
    | 0x60 => .ok (.sampleDIFF6_7 c.b2)
    | 0x70 => .ok (.sampleDIFF7_6 c.b2)
    | _ => .error .unlistedRid

/-- The decoder of either format. -/
def decode : Code → Except DecodeError Instr
  | .req w => match decodeReq w with
    | .ok i => .ok i
    | .error e => .error (.badReq e)
  | .cmd c => match decodeCmd c with
    | .ok i => .ok i
    | .error e => .error (.badCmd e)

/-! ### The encoder -/

/-- The 32-bit word of its operation field, three upper descriptor bits' worth of flags, and three operand bytes:
`op` 31:29, `diff` 28, `hp` 27, zero 26:24, then bytes 23:16, 15:8 and 7:0 (30_encoding.md R84, R86). -/
def packReq (op : BitVec 3) (diff hp : Bool) (byte2 byte1 byte0 : Byte) : ReqWord :=
  op ++ (BitVec.ofBool diff ++ (BitVec.ofBool hp ++ ((0 : BitVec 3) ++ (byte2 ++ (byte1 ++ byte0)))))

/-- The request word of an operation with a descriptor (30_encoding.md R86): an absent pair is `hp` = 0 and `pair` = 0. -/
def packDesc (op : BitVec 3) (d : Desc) : ReqWord :=
  match d.pair with
  | none => packReq op d.diff false d.primary 0 0
  | some q => packReq op d.diff true d.primary q 0

/-- The encoder of every instruction: 30_encoding.md R85 and R86 for REQ, R76 for CMD. -/
def encode : Instr → Code
  | .encodeCommand rid => .req (packReq 0 false false 0 0 rid)
  | .decodeReply r0 r1 r2 => .req (packReq 1 false false r0 r1 r2)
  | .registerIdFor line se => .req (packReq 2 false false 0 line (if se then 1 else 0))
  | .performTransaction rid => .req (packReq 3 false false 0 0 rid)
  | .readRaw d => .req (packDesc 4 d)
  | .readScale d => .req (packDesc 5 d)
  | .sampleSE0 f => .cmd ⟨Config.startByte, 0x80, f⟩
  | .sampleSE1 f => .cmd ⟨Config.startByte, 0x90, f⟩
  | .sampleSE2 f => .cmd ⟨Config.startByte, 0xA0, f⟩
  | .sampleSE3 f => .cmd ⟨Config.startByte, 0xB0, f⟩
  | .sampleSE4 f => .cmd ⟨Config.startByte, 0xC0, f⟩
  | .sampleSE5 f => .cmd ⟨Config.startByte, 0xD0, f⟩
  | .sampleSE6 f => .cmd ⟨Config.startByte, 0xE0, f⟩
  | .sampleSE7 f => .cmd ⟨Config.startByte, 0xF0, f⟩
  | .sampleDIFF0_1 f => .cmd ⟨Config.startByte, 0x00, f⟩
  | .sampleDIFF1_0 f => .cmd ⟨Config.startByte, 0x10, f⟩
  | .sampleDIFF2_3 f => .cmd ⟨Config.startByte, 0x20, f⟩
  | .sampleDIFF3_2 f => .cmd ⟨Config.startByte, 0x30, f⟩
  | .sampleDIFF4_5 f => .cmd ⟨Config.startByte, 0x40, f⟩
  | .sampleDIFF5_4 f => .cmd ⟨Config.startByte, 0x50, f⟩
  | .sampleDIFF6_7 f => .cmd ⟨Config.startByte, 0x60, f⟩
  | .sampleDIFF7_6 f => .cmd ⟨Config.startByte, 0x70, f⟩

/-! ### The 24-bit packing of a frame, 20_memory.md R54 -/

/-- The frame as one 24-bit number, the first byte sent in the most significant place. -/
def Bytes3.pack24 (c : Bytes3) : BitVec 24 := c.b0 ++ (c.b1 ++ c.b2)

/-- The frame of a 24-bit number. -/
def Bytes3.ofPacked (w : BitVec 24) : Bytes3 :=
  ⟨w.extractLsb' 16 8, w.extractLsb' 8 8, w.extractLsb' 0 8⟩

/-- The instruction the decoder reads from an opcode-table row's bits: a 32-bit REQ row is the request word itself, a
24-bit CMD24 row is the packed command. No row has another width. -/
def decodeTableWord (nbits w : Nat) : Option Instr :=
  if nbits = 32 then
    match decodeReq (BitVec.ofNat 32 w) with
    | .ok i => some i
    | .error _ => none
  else if nbits = 24 then
    match decodeCmd (Bytes3.ofPacked (BitVec.ofNat 24 w)) with
    | .ok i => some i
    | .error _ => none
  else none

end Sys2Proof
end

