-- ==== Sys2Proof/Machine/State.lean ====
section
/-! DEFINITION. The state of one device with its callers and its environment, and the reasons a step can stop. Plain
data: every field is a number, a finite list, or a closed inductive. -/

namespace Sys2Proof.Machine

/-- Whether the device instance exists (10_state.md R22). -/
inductive Life where
  | detached
  | attached
  deriving DecidableEq, Repr

/-- The status of a response (10_state.md R37, 60_exceptions.md R181). -/
inductive Status where
  | ok
  | transportError
  | invalidChannel
  | regulatorUnavailable
  | regulatorEnableFailed
  deriving DecidableEq, Repr

/-- The value of a response: an operation's result, or an error's payload (10_state.md R37, 60_exceptions.md R182). -/
inductive Value where
  /-- ENCODE_COMMAND: the three command bytes -/
  | command (c : Bytes3)
  /-- DECODE_REPLY, PERFORM_TRANSACTION, READ_RAW: the 10-bit sample -/
  | sample (s : Sample)
  /-- REGISTER_ID_FOR: the register id -/
  | registerId (rid : Byte)
  /-- READ_SCALE: numerator and exponent (42_voltage_scaler.md R160) -/
  | scale (numerator : Millivolts) (exponent : Nat)
  /-- INVALID_CHANNEL carries nothing -/
  | unit
  /-- TRANSPORT_ERROR: the code `Xfer` returned -/
  | transportCode (code : TransportCode)
  /-- REGULATOR_UNAVAILABLE and REGULATOR_ENABLE_FAILED: the code the regulator returned -/
  | regulatorCode (code : RegulatorCode)
  deriving DecidableEq, Repr

/-- A response (10_state.md R37). -/
structure Response where
  status : Status
  value : Value
  deriving DecidableEq, Repr

/-- A caller's phase (10_state.md R27). -/
inductive Phase where
  /-- no request outstanding -/
  | idle
  /-- a transaction for register id `rid` is waiting for the lock -/
  | waitLock (rid : Byte)
  /-- the caller holds the lock and the transfer for `rid` is outstanding -/
  | inXfer (rid : Byte)
  /-- the response is ready -/
  | done (resp : Response)
  deriving DecidableEq, Repr

/-- A buffer: the bytes written so far, by index, in canonical form. An unlisted index is unwritten, the spec's `none`
(10_state.md R21, R45). -/
abbrev Memory := List Host.Cell

/-- The callers' phases, by caller, in canonical form. An unlisted caller is `idle` (10_state.md R27). -/
abbrev PhaseMap := List (CallerId × Phase)

/-- The two buffers (20_memory.md R50). -/
inductive BufferId where
  | tx
  | rx
  deriving DecidableEq, Repr

/-- The parameters of 00_scope.md R9 that a rule reads. No step writes them. -/
structure Params where
  /-- `FILLER_BYTE` (D5) -/
  fillerByte : Byte
  /-- `N_CALLERS` less 1, so that there is at least one caller (D24) -/
  moreCallers : Nat
  /-- `TERR_W` (D16) -/
  terrWidth : Nat
  /-- `RERR_W` (D17) -/
  rerrWidth : Nat
  /-- `VREF_W` (D17) -/
  vrefWidth : Nat
  deriving DecidableEq, Repr

/-- The device, its callers and its environment. -/
structure State where
  /-- `life` (10_state.md R22) -/
  life : Life
  /-- `lock` (10_state.md R23): `none` is free -/
  lock : Option CallerId
  /-- `tx`, the command buffer (10_state.md R24) -/
  tx : Memory
  /-- `rx`, the reply buffer (10_state.md R25) -/
  rx : Memory
  /-- `phase[c]` of every caller (10_state.md R27) -/
  phases : PhaseMap
  /-- the borrowed handles, an instance's configuration, fixed at attach (10_state.md R34) -/
  handles : Option Handles
  /-- the outcome of the last attach, where it failed: REGULATOR_ENABLE_FAILED and its code (60_exceptions.md R186) -/
  attachError : Option RegulatorCode
  /-- `FILLER_BYTE`, `N_CALLERS` and the three widths (00_scope.md R9) -/
  params : Params
  /-- the model's own: the transport's outstanding transfer, its `out` bytes (10_state.md R39) -/
  xfer : Option Bytes3
  /-- the model's own: the caller whose step is being taken -/
  who : CallerId
  /-- the model's own: the steps the environment takes next, oldest first -/
  agenda : List Event
  /-- the model's own: the transport's next answers, oldest first -/
  xferAnswers : List XferAnswer
  /-- the model's own: the regulator's next millivolt answers, oldest first -/
  mvAnswers : List MvAnswer
  /-- the model's own: the regulator's next enable answers, oldest first -/
  enableAnswers : List EnableAnswer
  /-- the model's own: how many free values have been drawn so far (assumption log 3) -/
  draws : Nat
  deriving DecidableEq, Repr

/-- `N_INST` device instances side by side, at least one (00_scope.md R9, 92_eei_decisions.md D24). -/
structure Instances where
  first : State
  more : List State
  deriving DecidableEq, Repr

/-- Why a step faults. -/
inductive Fault where
  /-- Raised by a buffer read of an unwritten byte (92_eei_decisions.md D7, D8: "reading one is a fault of the model; no
  rule reads one"). Safe: the machine stops where the spec gives no value. No step reaches it. -/
  | unwrittenByte (buf : BufferId) (i : Fin 3)
  deriving DecidableEq, Repr

/-- Why a step is refused: the refusals of 60_exceptions.md R198. Each is safe: the run stops where the spec gives the
input no meaning. -/
inductive Refusal where
  /-- An instruction without a meaning, by its mnemonic. Raised by no arm of `exec` now. Safe. -/
  | notModelled (mnemonic : String)
  /-- `reserved_op`, raised by the issue step. Safe. -/
  | reservedOp
  /-- `reserved_bit_set`, raised by the issue step. Safe. -/
  | reservedBitSet
  /-- `pair_without_hp`, raised by the issue step. Safe. -/
  | pairWithoutHp
  /-- `line_out_of_contract`, raised by REGISTER_ID_FOR with line above 7 (40_codec.md R103). Safe. -/
  | lineOutOfContract
  /-- `not_attached`, raised by every request while no instance exists (10_state.md R22). Safe. -/
  | notAttached
  /-- `detach_busy`, raised by a detach while a caller is not idle or the lock is held (70_reset_and_hazards.md R223). Safe. -/
  | detachBusy
  deriving DecidableEq, Repr

/-- The outcome of a step of this machine. -/
abbrev Outcome := Host.Outcome State Fault Refusal

/-- The machine right after reset, which is a successful attach (10_state.md R45, 70_reset_and_hazards.md R221):
attached, lock free, both buffers unwritten, every caller idle. The filler and `VREF_W` are the spec's defaults (D5, D17).
The other fields are the model's own or open, and their values are named in assumption logs 2, 6, 7 and 9. -/
def State.reset : State where
  life := .attached
  lock := none
  tx := []
  rx := []
  phases := []
  handles := some Config.resetHandles
  attachError := none
  params :=
    { fillerByte := Config.fillerDefault
      moreCallers := Config.moreCallers
      terrWidth := Config.terrWidth
      rerrWidth := Config.rerrWidth
      vrefWidth := Config.vrefWidthDefault }
  xfer := none
  who := 0
  agenda := []
  xferAnswers := []
  mvAnswers := []
  enableAnswers := []
  draws := 0

end Sys2Proof.Machine
end

