-- ==== Sys2Proof/Machine/Flags.lean ====
section
/-! DEFINITION. The block has no status flags and no condition codes (10_state.md R29): a status is carried only in a
response. This file holds what stands in their place: the status codes and the responses. -/

namespace Sys2Proof.Machine

/-- The code of a status (60_exceptions.md R181). -/
def Status.code : Status → Nat
  | .ok => 0
  | .transportError => 1
  | .invalidChannel => 2
  | .regulatorUnavailable => 3
  | .regulatorEnableFailed => 4

/-- A response with status OK. -/
def Response.okWith (v : Value) : Response := ⟨.ok, v⟩

/-- INVALID_CHANNEL carries nothing (60_exceptions.md R182). -/
def Response.invalidChannel : Response := ⟨.invalidChannel, .unit⟩

/-- TRANSPORT_ERROR carries the code `Xfer` returned, unchanged (60_exceptions.md R182, R183). -/
def Response.transportError (code : TransportCode) : Response := ⟨.transportError, .transportCode code⟩

/-- REGULATOR_UNAVAILABLE carries the code `RegulatorMv` returned, unchanged (60_exceptions.md R182, R185). -/
def Response.regulatorUnavailable (code : RegulatorCode) : Response :=
  ⟨.regulatorUnavailable, .regulatorCode code⟩

/-- REGULATOR_ENABLE_FAILED, the outcome of a failed attach, carries the code `RegulatorEnable` returned, unchanged
(60_exceptions.md R182, R186). No request's response carries it. -/
def Response.regulatorEnableFailed (code : RegulatorCode) : Response :=
  ⟨.regulatorEnableFailed, .regulatorCode code⟩

/-- The response of a READ_SCALE to the regulator's answer (42_voltage_scaler.md R161): the millivolts unchanged (R163)
over the constant exponent (R167), or the code unchanged (R166). -/
def scaleResponse : MvAnswer → Response
  | .ok mv => .okWith (.scale mv Config.scaleExp)
  | .err code => .regulatorUnavailable code

/-- What the host is told of the last attach, if it failed (60_exceptions.md R186). -/
def State.attachOutcome (s : State) : Option Response :=
  s.attachError.map Response.regulatorEnableFailed

end Sys2Proof.Machine
end

