-- ==== Sys2Proof/Machine/Operands.lean ====
section
/-! DEFINITION. The operands and the pure functions of the three parts: the codec's encoders and decoder (40_codec.md R101
to R103), the channel table and the mapper's operand rule (10_state.md R32, 41_channel_mapper.md R131, R132), and the
scaler's pair (42_voltage_scaler.md R161). -/

namespace Sys2Proof.Machine

/-! ### The codec -/

/-- `encode_command(rid)` (40_codec.md R101): start byte, register id, filler. -/
def encodeCommand (filler rid : Byte) : Bytes3 := ⟨Config.startByte, rid, filler⟩

/-- `decode_reply(r)` (40_codec.md R102): `((r[1] & 0b11) << 8) | r[2]`, ten bits wide. -/
def decodeReply (r : Bytes3) : Sample :=
  ((r.b1 &&& 0b00000011).setWidth 10 <<< 8) ||| r.b2.setWidth 10

/-- The formula of 30_encoding.md R75: `zext_8(se << 7 | line << 4)`. -/
def assembleRid (line : Byte) (se : Bool) : Byte :=
  ((if se then (1 : Byte) else 0) <<< 7) ||| (line <<< 4)

/-- `register_id_for(line, se)` (40_codec.md R103): no value for a line above 7. -/
def registerIdFor (line : Byte) (se : Bool) : Option Byte :=
  if 7 < line.toNat then none else some (assembleRid line se)

/-! ### The channel table and the mapper's operands -/

/-- The channel table (10_state.md R32), a read-only memory of 16 descriptors that no step writes (R30), by index. -/
def channelTable : List Desc :=
  [.se 0, .se 1, .se 2, .se 3, .se 4, .se 5, .se 6, .se 7,
   .df 0 1, .df 1 0, .df 2 3, .df 3 2, .df 4 5, .df 5 4, .df 6 7, .df 7 6]

/-- The names of the channels, in the table's order (10_state.md R32). -/
def channelNames : List String :=
  ["SE0", "SE1", "SE2", "SE3", "SE4", "SE5", "SE6", "SE7"] ++
  ["DIFF0_1", "DIFF1_0", "DIFF2_3", "DIFF3_2", "DIFF4_5", "DIFF5_4", "DIFF6_7", "DIFF7_6"]

/-- `valid(d)`, by the formula of 41_channel_mapper.md R131. -/
def validDesc (d : Desc) : Bool :=
  decide (d.primary.toNat ≤ 7) &&
    (if d.diff then d.pair == some (d.primary ^^^ 1) else d.pair == none)

/-- The operands of REGISTER_ID_FOR for a descriptor (41_channel_mapper.md R132): the paired index is never encoded. -/
def mapOperands (d : Desc) : Byte × Bool := (d.primary, !d.diff)

/-- The register id of a descriptor (41_channel_mapper.md R130, R133); none for a descriptor outside the table. -/
def ridOf (d : Desc) : Option Byte :=
  if validDesc d then registerIdFor (mapOperands d).1 (mapOperands d).2 else none

/-! ### The widths of the collaborators' answers -/

/-- A number's low `w` bits: what a value of `w` bits is of it, and the number itself where it fits. -/
def lowBits (w n : Nat) : Nat := n % 2 ^ w

/-- A transport answer whose code has `TERR_W` bits (10_state.md R39; assumption log 7). -/
def narrowXfer (p : Params) : XferAnswer → XferAnswer
  | .ok reply => .ok reply
  | .err code => .err (lowBits p.terrWidth code)

/-- A millivolt answer of `VREF_W` bits, or a code of `RERR_W` bits (10_state.md R42; assumption log 7). -/
def narrowMv (p : Params) : MvAnswer → MvAnswer
  | .ok mv => .ok (lowBits p.vrefWidth mv)
  | .err code => .err (lowBits p.rerrWidth code)

/-- An enable answer whose code has `RERR_W` bits (10_state.md R42; assumption log 7). -/
def narrowEnable (p : Params) : EnableAnswer → EnableAnswer
  | .ok => .ok
  | .err code => .err (lowBits p.rerrWidth code)

/-! ### The scaler -/

/-- The exact rational `numerator / 2^exponent` millivolts per LSB a scale denotes (42_voltage_scaler.md R160). -/
def scaleDenotes (numerator : Millivolts) (exponent : Nat) : ℚ :=
  (numerator : ℚ) / 2 ^ exponent

/-- What a sample and a scale denote together, in millivolts (42_voltage_scaler.md R164). The block does not compute it:
no meaning calls this. -/
def voltageDenotes (s : Sample) (numerator : Millivolts) (exponent : Nat) : ℚ :=
  (s.toNat : ℚ) * scaleDenotes numerator exponent

end Sys2Proof.Machine
end

