-- ==== Sys2Proof/Machine/Ops.lean ====
section
/-! DEFINITION. The shared operations: the buffers' memory primitives (00_scope.md R11, 20_memory.md R56), the callers'
phases, the draws, completing a request with a response (an error response too: the block's only exceptional entry,
60_exceptions.md R190), the gate of the issue step, and the steps of a transaction (40_codec.md R105 to R107). -/

namespace Sys2Proof.Machine

/-! ### Sorted association lists -/

/-- The entry of a key. -/
def Assoc.get {α : Type} : List (Nat × α) → Nat → Option α
  | [], _ => none
  | (k, v) :: l, a => if k = a then some v else Assoc.get l a

/-- Writes an entry, keeping the keys rising. -/
def Assoc.put {α : Type} : List (Nat × α) → Nat → α → List (Nat × α)
  | [], a, x => [(a, x)]
  | (k, v) :: l, a, x =>
    if a < k then (a, x) :: (k, v) :: l
    else if k = a then (a, x) :: l
    else (k, v) :: Assoc.put l a x

/-- Removes a key's entries. -/
def Assoc.erase {α : Type} : List (Nat × α) → Nat → List (Nat × α)
  | [], _ => []
  | (k, v) :: l, a => if k = a then Assoc.erase l a else (k, v) :: Assoc.erase l a

/-- The keys rise strictly and all lie above a bound, where there is one. -/
def Assoc.risingFrom {α : Type} : Option Nat → List (Nat × α) → Bool
  | _, [] => true
  | none, (k, _) :: l => Assoc.risingFrom (some k) l
  | some b, (k, _) :: l => decide (b < k) && Assoc.risingFrom (some k) l

/-! ### The buffers -/

/-- The canonical form of a buffer: indices rising strictly, all of them 0 to 2. An unlisted byte is unwritten, so no
entry can equal what an unlisted byte reads as. -/
def Memory.wf (m : Memory) : Bool :=
  Assoc.risingFrom none m && m.all (fun p => decide (p.1 < 3))

/-- Reads one byte of a buffer; an unwritten byte faults (92_eei_decisions.md D7). -/
def readByte (b : BufferId) (m : Memory) (i : Fin 3) : Except Fault Byte :=
  match Assoc.get m i.val with
  | some v => .ok v
  | none => .error (.unwrittenByte b i)

/-- Writes one byte of a buffer: `tx[i] <- v` (00_scope.md R11). -/
def writeByte (m : Memory) (i : Fin 3) (v : Byte) : Memory := Assoc.put m i.val v

/-- `MemRead(buf, 0, 3)`, the only read any rule makes (20_memory.md R56). -/
def memRead3 (b : BufferId) (m : Memory) : Except Fault Bytes3 :=
  match readByte b m 0, readByte b m 1, readByte b m 2 with
  | .ok x, .ok y, .ok z => .ok ⟨x, y, z⟩
  | .error f, _, _ => .error f
  | _, .error f, _ => .error f
  | _, _, .error f => .error f

/-- `MemWrite(buf, 0, 3, v)`, the only write any rule makes (20_memory.md R56). -/
def memWrite3 (m : Memory) (v : Bytes3) : Memory :=
  writeByte (writeByte (writeByte m 0 v.b0) 1 v.b1) 2 v.b2

/-! ### The callers' phases -/

/-- `N_CALLERS` (00_scope.md R9). -/
def State.nCallers (s : State) : Nat := s.params.moreCallers + 1

/-- `phase[c]` (10_state.md R27). -/
def State.phaseOf (s : State) (c : CallerId) : Phase := (Assoc.get s.phases c).getD .idle

/-- `phase[c] <- p`. Writing `idle` removes the entry, which keeps the canonical form. -/
def State.setPhase (s : State) (c : CallerId) (p : Phase) : State :=
  match p with
  | .idle => { s with phases := Assoc.erase s.phases c }
  | p => { s with phases := Assoc.put s.phases c p }

/-- Whether a phase is `idle`. -/
def Phase.isIdle : Phase → Bool
  | .idle => true
  | _ => false

/-- The canonical form of the phases: callers rising strictly, each below `n`, none listed as idle. -/
def PhaseMap.wf (n : Nat) (l : PhaseMap) : Bool :=
  Assoc.risingFrom none l && l.all (fun p => decide (p.1 < n) && !p.2.isIdle)

/-- Whether every caller is `idle`. -/
def State.allIdle (s : State) : Bool := s.phases.all fun p => (s.phaseOf p.1).isIdle

/-! ### The draws: the environment's next answer from its list, and a free value past the list's end. A collaborator's
answer has the widths of 00_scope.md R9, so a draw gives it those (assumption log 7). -/

/-- One `Xfer` answer (10_state.md R39). -/
def State.drawXfer (s : State) : XferAnswer × State :=
  match s.xferAnswers with
  | a :: rest => (narrowXfer s.params a, { s with xferAnswers := rest })
  | [] => (narrowXfer s.params (Config.freeXfer s.draws), { s with draws := s.draws + 1 })

/-- One `RegulatorMv` answer (10_state.md R42). -/
def State.drawMv (s : State) : MvAnswer × State :=
  match s.mvAnswers with
  | a :: rest => (narrowMv s.params a, { s with mvAnswers := rest })
  | [] => (narrowMv s.params (Config.freeMv s.draws), { s with draws := s.draws + 1 })

/-- One `RegulatorEnable` answer (10_state.md R42). -/
def State.drawEnable (s : State) : EnableAnswer × State :=
  match s.enableAnswers with
  | a :: rest => (narrowEnable s.params a, { s with enableAnswers := rest })
  | [] => (narrowEnable s.params (Config.freeEnable s.draws), { s with draws := s.draws + 1 })

/-- The environment's next step (60_exceptions.md R197). -/
def State.drawEvent (s : State) : Event × State :=
  match s.agenda with
  | e :: rest => (e, { s with agenda := rest })
  | [] => (Config.freeEvent s.draws, { s with draws := s.draws + 1 })

/-! ### Completing a request -/

/-- `phase[c] <- DONE(resp)` for the caller whose step is being taken. An error response is entered the same way: it
saves no state, changes no mode and transfers control nowhere (60_exceptions.md R190). -/
def State.respond (s : State) (r : Response) : State := s.setPhase s.who (.done r)

/-- The return: caller `c` takes its response, `DONE → IDLE` (10_state.md R27, 60_exceptions.md R191). For a caller with
no response the step is not enabled and nothing happens. -/
def takeResponse (c : CallerId) (s : State) : State :=
  match s.phaseOf c with
  | .done _ => s.setPhase c .idle
  | _ => s

/-! ### The issue step -/

/-- Whether caller `c` can issue: it exists and is `idle` (10_state.md R36, 60_exceptions.md R196). -/
def State.canIssue (s : State) (c : CallerId) : Bool :=
  decide (c < s.nCallers) && (s.phaseOf c).isIdle

/-- The gate of the issue step (60_exceptions.md R197): refused while no instance exists (10_state.md R22); not enabled,
so that nothing happens, for a caller that is not `idle` or does not exist (10_state.md R36; assumption log 5). DESIGN
CHOICE (assumption log 19): the lifecycle is tested before anything else, so that while detached the refusal is
`not_attached` whatever the caller and whatever the word, a malformed one and a REGISTER_ID_FOR with line above 7 among
them. The spec refuses each of these and puts the refusals in no order. -/
def issueGate (s : State) (body : State → Outcome) : Outcome :=
  match s.life with
  | .detached => .refused .notAttached
  | .attached => if s.canIssue s.who then body s else .next s

/-- The issue step of an operation that completes at once (40_codec.md R100). -/
def issueResponse (s : State) (r : Response) : Outcome := issueGate s fun s => .next (s.respond r)

/-- The issue step of a transaction: `phase[c] <- WAIT_LOCK(rid)` (40_codec.md R105). -/
def issueTransaction (s : State) (rid : Byte) : Outcome :=
  issueGate s fun s => .next (s.setPhase s.who (.waitLock rid))

/-! ### The steps of a transaction -/

/-- The acquire step of caller `c` (40_codec.md R106): takes the lock, writes all three bytes of `tx`, and issues the
transfer with the bytes read back from `tx`. Where it is not enabled nothing happens: a caller that waits blocks while
the lock is held (20_memory.md R62). -/
def acquireLock (c : CallerId) (s : State) : Outcome :=
  match s.life, s.phaseOf c, s.lock with
  | .attached, .waitLock rid, none =>
    let tx := memWrite3 s.tx (encodeCommand s.params.fillerByte rid)
    match memRead3 .tx tx with
    | .error f => .fault f
    | .ok out => .next (({ s with lock := some c, tx := tx, xfer := some out }).setPhase c (.inXfer rid))
  | _, _, _ => .next s

/-- The completion step for the caller whose step is being taken (40_codec.md R107): draws the transfer's result, keeps
the reply or makes `rx` unwritten, frees the lock, and responds. -/
def completeTransfer (s : State) : Outcome :=
  match s.drawXfer with
  | (.ok reply, s) =>
    let rx := memWrite3 s.rx reply
    match memRead3 .rx rx with
    | .error f => .fault f
    | .ok r =>
      .next (({ s with rx := rx, lock := none, xfer := none }).respond (.okWith (.sample (decodeReply r))))
  | (.err code, s) =>
    .next (({ s with rx := [], lock := none, xfer := none }).respond (.transportError code))

/-- Whether the caller whose step is being taken has an outstanding transfer of exactly this command. -/
def State.onWire (s : State) (cmd : Bytes3) : Bool :=
  match s.phaseOf s.who with
  | .inXfer _ => s.xfer == some cmd
  | _ => false

/-- A wire command of 30_encoding.md R76 with register id `rid`: where it is the command of the outstanding transfer, the
exchange takes place and the transfer completes (40_codec.md R107). The transport answers only an outstanding transfer
(60_exceptions.md R195), so elsewhere nothing happens (assumption log 10). -/
def exchange (rid filler : Byte) (s : State) : Outcome :=
  if s.onWire ⟨Config.startByte, rid, filler⟩ then completeTransfer s else .next s

end Sys2Proof.Machine
end

