-- ==== Sys2Proof/Machine/Codec.lean ====
section
/-! DEFINITION. The meanings of the codec's requests (40_codec.md). -/

namespace Sys2Proof.Machine

/-- ENCODE_COMMAND (40_codec.md R101). -/
def execEncodeCommand (rid : Byte) (s : State) : Outcome :=
  issueResponse s (.okWith (.command (encodeCommand s.params.fillerByte rid)))

/-- DECODE_REPLY (40_codec.md R102). -/
def execDecodeReply (r0 r1 r2 : Byte) (s : State) : Outcome :=
  issueResponse s (.okWith (.sample (decodeReply ⟨r0, r1, r2⟩)))

/-- REGISTER_ID_FOR (40_codec.md R103): refused for a line above 7. -/
def execRegisterIdFor (line : Byte) (se : Bool) (s : State) : Outcome :=
  issueGate s fun s =>
    match registerIdFor line se with
    | some rid => .next (s.respond (.okWith (.registerId rid)))
    | none => .refused .lineOutOfContract

/-- PERFORM_TRANSACTION, its issue step (40_codec.md R105); its acquire and completion steps are `acquireLock` and
`completeTransfer`. Every register id is accepted (30_encoding.md R80). -/
def execPerformTransaction (rid : Byte) (s : State) : Outcome := issueTransaction s rid

end Sys2Proof.Machine
end

