-- ==== Sys2Proof/Machine/Mapper.lean ====
section
/-! DEFINITION. The meaning of READ_RAW (41_channel_mapper.md). -/

namespace Sys2Proof.Machine

/-- READ_RAW, its issue step (41_channel_mapper.md R133): validity before anything else (R134), then the transaction of
the descriptor's register id. -/
def execReadRaw (d : Desc) (s : State) : Outcome :=
  match ridOf d with
  | none => issueResponse s .invalidChannel
  | some rid => issueTransaction s rid

end Sys2Proof.Machine
end

