-- ==== Sys2Proof/Machine/Scaler.lean ====
section
/-! DEFINITION. The meaning of READ_SCALE (42_voltage_scaler.md). -/

namespace Sys2Proof.Machine

/-- READ_SCALE (42_voltage_scaler.md R161): one regulator call, answered in the same step. The descriptor is not read
(R165), the lock not taken and no buffer touched. -/
def execReadScale (_d : Desc) (s : State) : Outcome :=
  issueGate s fun s =>
    match s.drawMv with
    | (answer, s) => .next (s.respond (scaleResponse answer))

end Sys2Proof.Machine
end

