-- ==== Sys2Proof/Machine/Wire.lean ====
section
/-! DEFINITION. The meanings of the sixteen wire commands (30_encoding.md R76): the exchange of the command that is on the
wire, which is the completion step of its transaction (40_codec.md R107). The device samples the channel and replies; its
three bytes, or the transport's error, are a draw (20_memory.md R58, 10_state.md R39). -/

namespace Sys2Proof.Machine

/-- SAMPLE_SE0: single-ended line 0 (30_encoding.md R76). -/
def execSampleSE0 (filler : Byte) (s : State) : Outcome := exchange 0x80 filler s

/-- SAMPLE_SE1: single-ended line 1 (30_encoding.md R76). -/
def execSampleSE1 (filler : Byte) (s : State) : Outcome := exchange 0x90 filler s

/-- SAMPLE_SE2: single-ended line 2 (30_encoding.md R76). -/
def execSampleSE2 (filler : Byte) (s : State) : Outcome := exchange 0xA0 filler s

/-- SAMPLE_SE3: single-ended line 3 (30_encoding.md R76). -/
def execSampleSE3 (filler : Byte) (s : State) : Outcome := exchange 0xB0 filler s

/-- SAMPLE_SE4: single-ended line 4 (30_encoding.md R76). -/
def execSampleSE4 (filler : Byte) (s : State) : Outcome := exchange 0xC0 filler s

/-- SAMPLE_SE5: single-ended line 5 (30_encoding.md R76). -/
def execSampleSE5 (filler : Byte) (s : State) : Outcome := exchange 0xD0 filler s

/-- SAMPLE_SE6: single-ended line 6 (30_encoding.md R76). -/
def execSampleSE6 (filler : Byte) (s : State) : Outcome := exchange 0xE0 filler s

/-- SAMPLE_SE7: single-ended line 7 (30_encoding.md R76). -/
def execSampleSE7 (filler : Byte) (s : State) : Outcome := exchange 0xF0 filler s

/-- SAMPLE_DIFF0_1: differential pair (0,1) (30_encoding.md R76). -/
def execSampleDIFF0_1 (filler : Byte) (s : State) : Outcome := exchange 0x00 filler s

/-- SAMPLE_DIFF1_0: differential pair (1,0) (30_encoding.md R76). -/
def execSampleDIFF1_0 (filler : Byte) (s : State) : Outcome := exchange 0x10 filler s

/-- SAMPLE_DIFF2_3: differential pair (2,3) (30_encoding.md R76). -/
def execSampleDIFF2_3 (filler : Byte) (s : State) : Outcome := exchange 0x20 filler s

/-- SAMPLE_DIFF3_2: differential pair (3,2) (30_encoding.md R76). -/
def execSampleDIFF3_2 (filler : Byte) (s : State) : Outcome := exchange 0x30 filler s

/-- SAMPLE_DIFF4_5: differential pair (4,5) (30_encoding.md R76). -/
def execSampleDIFF4_5 (filler : Byte) (s : State) : Outcome := exchange 0x40 filler s

/-- SAMPLE_DIFF5_4: differential pair (5,4) (30_encoding.md R76). -/
def execSampleDIFF5_4 (filler : Byte) (s : State) : Outcome := exchange 0x50 filler s

/-- SAMPLE_DIFF6_7: differential pair (6,7) (30_encoding.md R76). -/
def execSampleDIFF6_7 (filler : Byte) (s : State) : Outcome := exchange 0x60 filler s

/-- SAMPLE_DIFF7_6: differential pair (7,6) (30_encoding.md R76). -/
def execSampleDIFF7_6 (filler : Byte) (s : State) : Outcome := exchange 0x70 filler s

end Sys2Proof.Machine
end

