-- ==== Sys2Proof/Machine/Dispatch.lean ====
section
/-! DEFINITION. One arm per instruction. -/

namespace Sys2Proof.Machine

def exec (i : Instr) (s : State) : Host.Outcome State Fault Refusal :=
  match i with
  | .encodeCommand rid => Sys2Proof.Machine.execEncodeCommand rid s
  | .decodeReply r0 r1 r2 => Sys2Proof.Machine.execDecodeReply r0 r1 r2 s
  | .registerIdFor line se => Sys2Proof.Machine.execRegisterIdFor line se s
  | .performTransaction rid => Sys2Proof.Machine.execPerformTransaction rid s
  | .readRaw d => Sys2Proof.Machine.execReadRaw d s
  | .readScale d => Sys2Proof.Machine.execReadScale d s
  | .sampleSE0 filler => Sys2Proof.Machine.execSampleSE0 filler s
  | .sampleSE1 filler => Sys2Proof.Machine.execSampleSE1 filler s
  | .sampleSE2 filler => Sys2Proof.Machine.execSampleSE2 filler s
  | .sampleSE3 filler => Sys2Proof.Machine.execSampleSE3 filler s
  | .sampleSE4 filler => Sys2Proof.Machine.execSampleSE4 filler s
  | .sampleSE5 filler => Sys2Proof.Machine.execSampleSE5 filler s
  | .sampleSE6 filler => Sys2Proof.Machine.execSampleSE6 filler s
  | .sampleSE7 filler => Sys2Proof.Machine.execSampleSE7 filler s
  | .sampleDIFF0_1 filler => Sys2Proof.Machine.execSampleDIFF0_1 filler s
  | .sampleDIFF1_0 filler => Sys2Proof.Machine.execSampleDIFF1_0 filler s
  | .sampleDIFF2_3 filler => Sys2Proof.Machine.execSampleDIFF2_3 filler s
  | .sampleDIFF3_2 filler => Sys2Proof.Machine.execSampleDIFF3_2 filler s
  | .sampleDIFF4_5 filler => Sys2Proof.Machine.execSampleDIFF4_5 filler s
  | .sampleDIFF5_4 filler => Sys2Proof.Machine.execSampleDIFF5_4 filler s
  | .sampleDIFF6_7 filler => Sys2Proof.Machine.execSampleDIFF6_7 filler s
  | .sampleDIFF7_6 filler => Sys2Proof.Machine.execSampleDIFF7_6 filler s

end Sys2Proof.Machine
end

