-- ==== Sys2Proof/Machine/Events.lean ====
section
/-! DEFINITION. The steps of one device (60_exceptions.md R197): issue, acquire, complete, take, and the host's attach and
detach (70_reset_and_hazards.md R221, R223); where the block's instructions are fetched from; and several devices side by
side. -/

namespace Sys2Proof.Machine

/-- The refusal of a request word the decoder rejects (30_encoding.md R87, 60_exceptions.md R198). -/
def refusalOf : ReqError → Refusal
  | .reservedOp => .reservedOp
  | .reservedBitSet => .reservedBitSet
  | .pairWithoutHp => .pairWithoutHp

/-- The issue step of the caller whose step is being taken: the request word is decoded and the request runs. While
detached the word is not decoded, and the refusal is `not_attached` (DESIGN CHOICE, assumption log 19). -/
def issueRequest (w : ReqWord) (s : State) : Outcome :=
  issueGate s fun s =>
    match decodeReq w with
    | .ok i => exec i s
    | .error e => .refused (refusalOf e)

/-- The completion step of the caller whose step is being taken, enabled while its transfer is outstanding
(60_exceptions.md R197). The command on the wire runs as its row of 30_encoding.md R76; an id outside the sixteen is
exchanged and completes in the same way (R80). -/
def completeExchange (s : State) : Outcome :=
  match s.phaseOf s.who, s.xfer with
  | .inXfer _, some cmd =>
    match decodeCmd cmd with
    | .ok i => exec i s
    | .error _ => completeTransfer s
  | _, _ => .next s

/-- Attach (70_reset_and_hazards.md R221), enabled while detached: enables the regulator once; on success the values of
10_state.md R45, on failure REGULATOR_ENABLE_FAILED and no instance. -/
def attachDevice (h : Handles) (s : State) : Outcome :=
  match s.life with
  | .attached => .next s
  | .detached =>
    match s.drawEnable with
    | (.err code, s) => .next { s with attachError := some code }
    | (.ok, s) =>
      .next { s with life := .attached, lock := none, tx := [], rx := [], phases := [], handles := some h,
                     attachError := none, xfer := none }

/-- Detach (70_reset_and_hazards.md R223), enabled while attached with the lock free and every caller idle, and refused
otherwise (60_exceptions.md R198). Nothing survives it (70_reset_and_hazards.md R224). -/
def detachDevice (s : State) : Outcome :=
  match s.life with
  | .detached => .next s
  | .attached =>
    if s.lock = none ∧ s.allIdle = true then
      .next { s with life := .detached, lock := none, tx := [], rx := [], phases := [], handles := none,
                     attachError := none, xfer := none }
    else .refused .detachBusy

/-- One step of one agent (60_exceptions.md R197). -/
def runEvent (e : Event) (s : State) : Outcome :=
  match e with
  | .issue c w => issueRequest w { s with who := c }
  | .acquire c => acquireLock c { s with who := c }
  | .complete c => completeExchange { s with who := c }
  | .take c => .next (takeResponse c { s with who := c })
  | .attach h => attachDevice h s
  | .detach => detachDevice s

/-- The environment's next step, taken. -/
def stepOnce (s : State) : Outcome :=
  match s.drawEvent with
  | (e, s) => runEvent e s

/-! ### Where an instruction is fetched from (assumption log 2) -/

/-- Caller 0 attached and `idle`, holding nothing. -/
def callerReady (s : State) : State :=
  let s := { s with life := .attached }.setPhase 0 .idle
  if s.lock = some 0 then { s with lock := none, xfer := none } else s

/-- A request word as the next request, issued by caller 0. -/
def placeRequest (w : ReqWord) (s : State) : State :=
  let s := callerReady s
  { s with agenda := .issue 0 w :: s.agenda }

/-- A wire command as the outstanding transfer of caller 0, as the acquire step of its register id leaves it, with the
transport's completion next and a reply of three free bytes as the transport's next answer. -/
def placeCommand (cmd : Bytes3) (s : State) : State :=
  let s := { s with life := .attached, lock := some 0, tx := memWrite3 s.tx cmd, xfer := some cmd }.setPhase 0
    (.inXfer cmd.b1)
  { s with agenda := .complete 0 :: s.agenda, xferAnswers := .ok Config.placedReply :: s.xferAnswers }

/-! ### Several devices (10_state.md R35) -/

/-- `N_INST`: at least one. -/
def Instances.count (d : Instances) : Nat := d.more.length + 1

/-- Instance `k`, counted from 0. -/
def Instances.get? (d : Instances) (k : Nat) : Option State := (d.first :: d.more)[k]?

/-- Instance `k` replaced. -/
def Instances.set (d : Instances) (k : Nat) (s : State) : Instances :=
  match k with
  | 0 => { d with first := s }
  | k + 1 => { d with more := d.more.set k s }

/-- A step of instance `k`: the product of independent devices (92_eei_decisions.md D24). A number that names no instance
does nothing (assumption log 16). -/
def stepDevice (k : Nat) (d : Instances) : Host.Outcome Instances Fault Refusal :=
  match d.get? k with
  | none => .next d
  | some s =>
    match stepOnce s with
    | .next s' => .next (d.set k s')
    | .fault f => .fault f
    | .refused r => .refused r

end Sys2Proof.Machine
end

