-- ==== Sys2Proof/Machine/Step.lean ====
section
/-! DEFINITION. One step, and the state in which a given instruction is the next to run. -/

namespace Sys2Proof.Machine

/-- One step of the device: the environment's next step is drawn and taken (60_exceptions.md R197). -/
def step (s : State) : Host.Outcome State Fault Refusal := stepOnce s

/-- The state with an instruction where the next step fetches it: a 32-bit request word as the next request of caller 0,
a 24-bit wire command as the outstanding transfer of caller 0 (assumption log 2). -/
def State.withFetchWord (s : State) (nbits w : Nat) : State :=
  if nbits = 32 then placeRequest (BitVec.ofNat 32 w) s
  else if nbits = 24 then placeCommand (Bytes3.ofPacked (BitVec.ofNat 24 w)) s
  else s

end Sys2Proof.Machine
end

