-- ==== Sys2Proof/Machine/Assembly.lean ====
section
/-! DEFINITION. The textual syntax of requests (30_encoding.md R89, R90): one request on a line, with a caller that
defaults to `c0`. The syntax carries no meaning (92_eei_decisions.md D20); no step reads it. -/

namespace Sys2Proof.Machine

/-- A token: a run of letters, digits and underscores, or one other character. -/
inductive Token where
  | word (w : List Char)
  | mark (c : Char)
  deriving DecidableEq, Repr

/-- Whether a character belongs to a word. -/
def isWordChar (c : Char) : Bool := c.isAlphanum || c == '_'

/-- The tokens of a line. `acc` is the word being read, last character first. -/
def tokens : List Char → List Char → List Token
  | acc, [] => if acc.isEmpty then [] else [.word acc.reverse]
  | acc, c :: cs =>
    if isWordChar c then tokens (c :: acc) cs
    else (if acc.isEmpty then [] else [.word acc.reverse]) ++
      (if c.isWhitespace then [] else [.mark c]) ++ tokens [] cs

/-- The value of a digit in a base. -/
def digitValue (base : Nat) (c : Char) : Option Nat :=
  let v := if c.isDigit then some (c.toNat - '0'.toNat)
    else if 'a' ≤ c ∧ c ≤ 'f' then some (c.toNat - 'a'.toNat + 10)
    else if 'A' ≤ c ∧ c ≤ 'F' then some (c.toNat - 'A'.toNat + 10)
    else none
  v.filter (· < base)

/-- The value of a run of digits, continuing from `n`. -/
def digitsValue (base : Nat) : Nat → List Char → Option Nat
  | n, [] => some n
  | n, c :: cs => (digitValue base c).bind fun d => digitsValue base (n * base + d) cs

/-- A number: decimal, or hexadecimal with `0x`. -/
def numberOf : List Char → Option Nat
  | [] => none
  | '0' :: 'x' :: c :: cs => digitsValue 16 0 (c :: cs)
  | cs => digitsValue 10 0 cs

/-- A number that fits in a byte. -/
def byteOf (w : List Char) : Option Byte :=
  (numberOf w).bind fun n => if n < 256 then some (BitVec.ofNat 8 n) else none

/-- A flag: 0 or 1. -/
def flagOf (w : List Char) : Option Bool :=
  (numberOf w).bind fun n => if n = 0 then some false else if n = 1 then some true else none

/-- The descriptor of a channel's name (30_encoding.md R90). -/
def namedChannel (w : List Char) : Option Desc :=
  ((channelNames.zip channelTable).find? fun p => p.1.toList == w).map (·.2)

/-- `<chan>` of 30_encoding.md R89, or a channel's name. -/
def channelOf : List Token → Option Desc
  | [.word n] => namedChannel n
  | [.word f, .mark '(', .word p, .mark ')'] =>
    if f = "se".toList then (byteOf p).map Desc.se else none
  | [.word f, .mark '(', .word p, .mark ',', .word q, .mark ')'] =>
    if f = "diff".toList then (byteOf p).bind fun p => (byteOf q).map (Desc.df p) else none
  | [.word f, .mark '(', .word d, .mark ',', .word p, .mark ',', .word q, .mark ')'] =>
    if f = "desc".toList then
      (flagOf d).bind fun d => (byteOf p).bind fun p => (byteOf q).map fun q => ⟨d, p, some q⟩
    else none
  | [.word f, .mark '(', .word d, .mark ',', .word p, .mark ',', .mark '-', .mark ')'] =>
    if f = "desc".toList then (flagOf d).bind fun d => (byteOf p).map fun p => ⟨d, p, none⟩ else none
  | _ => none

/-- `se|diff` of `register_id_for`. -/
def modeOf (w : List Char) : Option Bool :=
  if w = "se".toList then some true else if w = "diff".toList then some false else none

/-- A request without its caller. -/
def requestOf : List Token → Option Instr
  | .word op :: args =>
    if op = "read_raw".toList then (channelOf args).map .readRaw
    else if op = "read_scale".toList then (channelOf args).map .readScale
    else match args with
      | [.word a] =>
        if op = "encode_command".toList then (byteOf a).map .encodeCommand
        else if op = "perform_transaction".toList then (byteOf a).map .performTransaction
        else none
      | [.word a, .mark ',', .word b] =>
        if op = "register_id_for".toList then (byteOf a).bind fun l => (modeOf b).map (.registerIdFor l) else none
      | [.word a, .mark ',', .word b, .mark ',', .word c] =>
        if op = "decode_reply".toList then
          (byteOf a).bind fun a => (byteOf b).bind fun b => (byteOf c).map (.decodeReply a b)
        else none
      | _ => none
  | _ => none

/-- `<caller>`: `c0`, `c1`, and so on. -/
def callerOf : List Char → Option CallerId
  | 'c' :: d :: ds => digitsValue 10 0 (d :: ds)
  | _ => none

/-- One line of the syntax: the caller and its request. -/
def assemble (line : String) : Option (CallerId × Instr) :=
  match tokens [] line.toList with
  | .word c :: .mark ':' :: rest => (callerOf c).bind fun c => (requestOf rest).map fun i => (c, i)
  | ts => (requestOf ts).map fun i => (0, i)

/-- The issue step a line stands for: the request's word, issued by its caller. -/
def assembleEvent (line : String) : Option Event :=
  (assemble line).bind fun (c, i) =>
    match encode i with
    | .req w => some (.issue c w)
    | .cmd _ => none

end Sys2Proof.Machine
end

