-- ==== Sys2Proof/Safety.lean ====
section
/-! DEFINITION. The terms the claims are stated in: when a request can issue, the shape of a response, the invariant of a
device, the edges a caller's phase moves along, and the serial machine, in which a whole transaction is one move. -/

namespace Sys2Proof.Machine

/-! ### Requests -/

/-- The requests of the REQ format (30_encoding.md R85). -/
def isRequest : Instr → Bool
  | .encodeCommand _ | .decodeReply _ _ _ | .registerIdFor _ _ => true
  | .performTransaction _ | .readRaw _ | .readScale _ => true
  | _ => false

/-- Whether an instruction is a READ_SCALE. -/
def isReadScale : Instr → Bool
  | .readScale _ => true
  | _ => false

/-- The sixteen wire commands of 30_encoding.md R76 with a given filler, each with its channel's descriptor and its
register id. -/
def wireCommands (filler : Byte) : List (Instr × Desc × Byte) :=
  [(.sampleSE0 filler, .se 0, 0x80), (.sampleSE1 filler, .se 1, 0x90), (.sampleSE2 filler, .se 2, 0xA0),
   (.sampleSE3 filler, .se 3, 0xB0), (.sampleSE4 filler, .se 4, 0xC0), (.sampleSE5 filler, .se 5, 0xD0),
   (.sampleSE6 filler, .se 6, 0xE0), (.sampleSE7 filler, .se 7, 0xF0),
   (.sampleDIFF0_1 filler, .df 0 1, 0x00), (.sampleDIFF1_0 filler, .df 1 0, 0x10),
   (.sampleDIFF2_3 filler, .df 2 3, 0x20), (.sampleDIFF3_2 filler, .df 3 2, 0x30),
   (.sampleDIFF4_5 filler, .df 4 5, 0x40), (.sampleDIFF5_4 filler, .df 5 4, 0x50),
   (.sampleDIFF6_7 filler, .df 6 7, 0x60), (.sampleDIFF7_6 filler, .df 7 6, 0x70)]

/-- The device is attached and caller `c` exists and is `idle` (60_exceptions.md R197, the issue row). -/
abbrev ReadyFor (s : State) (c : CallerId) : Prop := s.life = .attached ∧ c < s.nCallers ∧ s.phaseOf c = .idle

/-- The caller whose step is being taken can issue. -/
abbrev Ready (s : State) : Prop := ReadyFor s s.who

/-! ### Responses -/

/-- A transport answer the parameters admit: a code of `TERR_W` bits (10_state.md R39). -/
def xferFits (p : Params) : XferAnswer → Bool
  | .ok _ => true
  | .err code => decide (code < 2 ^ p.terrWidth)

/-- A millivolt answer the parameters admit: `VREF_W` bits, or a code of `RERR_W` bits (10_state.md R42). -/
def mvFits (p : Params) : MvAnswer → Bool
  | .ok mv => decide (mv < 2 ^ p.vrefWidth)
  | .err code => decide (code < 2 ^ p.rerrWidth)

/-- The status and the value of a request's response fit together and have the parameters' widths (10_state.md R37,
60_exceptions.md R182); no request's response carries REGULATOR_ENABLE_FAILED, and a scale's exponent is 10
(42_voltage_scaler.md R167). -/
def Response.fits (r : Response) (p : Params) : Bool :=
  match r.status, r.value with
  | .ok, .command _ => true
  | .ok, .sample _ => true
  | .ok, .registerId _ => true
  | .ok, .scale n e => decide (n < 2 ^ p.vrefWidth) && e == Config.scaleExp
  | .transportError, .transportCode code => decide (code < 2 ^ p.terrWidth)
  | .invalidChannel, .unit => true
  | .regulatorUnavailable, .regulatorCode code => decide (code < 2 ^ p.rerrWidth)
  | _, _ => false

/-- The response of a transaction to its transfer's result (40_codec.md R107). -/
def transactionResponse : XferAnswer → Response
  | .ok reply => .okWith (.sample (decodeReply reply))
  | .err code => .transportError code

/-- The reply buffer reads as a transfer's result leaves it (40_codec.md R107). -/
def rxAfter (rx : Memory) : XferAnswer → Prop
  | .ok reply => memRead3 .rx rx = .ok reply
  | .err _ => ∀ i : Fin 3, readByte .rx rx i = .error (.unwrittenByte .rx i)

/-! ### The invariant -/

/-- What holds of a device in every state a run reaches. -/
structure Inv (s : State) : Prop where
  /-- the buffers are canonical -/
  txForm : Memory.wf s.tx = true
  rxForm : Memory.wf s.rx = true
  /-- the phases are canonical, and only callers that exist have one -/
  phasesForm : PhaseMap.wf s.nCallers s.phases = true
  /-- a detached device has no other state (10_state.md R45) -/
  detachedEmpty : s.life = .detached →
    s.lock = none ∧ s.tx = [] ∧ s.rx = [] ∧ s.phases = [] ∧ s.handles = none ∧ s.xfer = none
  /-- an attached device has its handles, and its attach did not fail -/
  attachedBound : s.life = .attached → s.handles.isSome = true ∧ s.attachError = none
  /-- the lock's owner is the one caller whose transfer is outstanding (10_state.md R23, R27) -/
  ownerInXfer : ∀ c, s.lock = some c ↔ ∃ rid, s.phaseOf c = .inXfer rid
  /-- the outstanding transfer and `tx` hold the command of its caller's register id (20_memory.md R60) -/
  wireCommand : ∀ c rid, s.phaseOf c = .inXfer rid →
    s.xfer = some (encodeCommand s.params.fillerByte rid) ∧
    memRead3 .tx s.tx = .ok (encodeCommand s.params.fillerByte rid)
  /-- no transfer is outstanding while the lock is free -/
  xferNeedsLock : s.lock = none → s.xfer = none
  /-- `tx` is unwritten or holds a whole command (10_state.md R24) -/
  txWhole : s.tx = [] ∨ ∃ rid, memRead3 .tx s.tx = .ok (encodeCommand s.params.fillerByte rid)
  /-- `rx` is unwritten or holds a whole reply (10_state.md R25) -/
  rxWhole : s.rx = [] ∨ ∃ reply, memRead3 .rx s.rx = .ok reply
  /-- every response waiting to be taken has the shape and the widths of 10_state.md R37 -/
  responsesFit : ∀ c r, s.phaseOf c = .done r → r.fits s.params = true
  /-- the code of a failed attach has `RERR_W` bits (60_exceptions.md R182) -/
  attachErrorFits : ∀ code, s.attachError = some code → code < 2 ^ s.params.rerrWidth

/-! ### The edges of a phase -/

/-- The moves of a caller's phase (10_state.md R27). -/
inductive PhaseEdge : Phase → Phase → Prop where
  | idleDone (r : Response) : PhaseEdge .idle (.done r)
  | idleWait (rid : Byte) : PhaseEdge .idle (.waitLock rid)
  | waitXfer (rid : Byte) : PhaseEdge (.waitLock rid) (.inXfer rid)
  | xferDone (rid : Byte) (r : Response) : PhaseEdge (.inXfer rid) (.done r)
  | doneIdle (r : Response) : PhaseEdge (.done r) .idle

/-! ### The serial machine (20_memory.md R66) -/

/-- A caller's phase where a transaction has no steps of its own. -/
inductive SerialPhase where
  | idle
  | pending (rid : Byte)
  | done (resp : Response)
  deriving DecidableEq, Repr

/-- What is left of a phase when waiting for the lock and waiting for the transfer are one. -/
def Phase.serial : Phase → SerialPhase
  | .idle => .idle
  | .waitLock rid => .pending rid
  | .inXfer rid => .pending rid
  | .done r => .done r

/-- The serial machine's state: every caller's serial phase. No lock, no buffers, no outstanding transfer. -/
def State.serial (s : State) : CallerId → SerialPhase := fun c => (s.phaseOf c).serial

/-- What issuing a request leads to, given the regulator's answer. A wire command is no request, and a register id of a
line above 7 is refused. -/
def serialIssue (filler : Byte) (mv : MvAnswer) : Instr → Option SerialPhase
  | .encodeCommand rid => some (.done (.okWith (.command (encodeCommand filler rid))))
  | .decodeReply r0 r1 r2 => some (.done (.okWith (.sample (decodeReply ⟨r0, r1, r2⟩))))
  | .registerIdFor line se => (registerIdFor line se).map fun rid => .done (.okWith (.registerId rid))
  | .performTransaction rid => some (.pending rid)
  | .readRaw d => some (match ridOf d with | none => .done .invalidChannel | some rid => .pending rid)
  | .readScale _ => some (.done (scaleResponse mv))
  | _ => none

/-- A move of the serial machine, with all that it depends on: a caller's request and the regulator's answer, a caller's
whole transaction and the transport's answer, or a caller taking its response. -/
inductive SerialAct where
  | issue (c : CallerId) (i : Instr) (mv : MvAnswer)
  | serve (c : CallerId) (rid : Byte) (answer : XferAnswer)
  | take (c : CallerId)

/-- The serial machine: what a move does to the callers' serial phases, where it can be made. -/
def SerialAct.apply (filler : Byte) (p : CallerId → SerialPhase) : SerialAct → Option (CallerId → SerialPhase)
  | .issue c i mv => if p c = .idle then (serialIssue filler mv i).map (Function.update p c) else none
  | .serve c rid answer =>
    if p c = .pending rid then some (Function.update p c (.done (transactionResponse answer))) else none
  | .take c => match p c with
    | .done _ => some (Function.update p c .idle)
    | _ => none

/-- The serial machine's run: the moves made one after another, each of them possible. -/
def serialRun (filler : Byte) : (CallerId → SerialPhase) → List SerialAct → Option (CallerId → SerialPhase)
  | p, [] => some p
  | p, a :: l => (a.apply filler p).bind fun q => serialRun filler q l

/-- The serial move that a step of the device stands for: the request its event issues, decoded, with the regulator's
answer drawn in that step; the transaction its event completes, with the transport's answer drawn in that step; or the
response its event takes. An acquire, an attach, a detach and an event that is not enabled stand for none. -/
def serialActOf (s : State) : Option SerialAct :=
  match s.drawEvent.1 with
  | .issue c w =>
    match s.life, s.canIssue c, decodeReq w with
    | .attached, true, .ok i => some (.issue c i s.drawEvent.2.drawMv.1)
    | _, _, _ => none
  | .complete c =>
    match s.phaseOf c with
    | .inXfer rid => some (.serve c rid s.drawEvent.2.drawXfer.1)
    | _ => none
  | .take c =>
    match s.phaseOf c with
    | .done _ => some (.take c)
    | _ => none
  | .acquire _ => none
  | .attach _ => none
  | .detach => none

/-- The serial moves of a run, in the run's order. -/
def serialTrace : Nat → State → List SerialAct
  | 0, _ => []
  | k + 1, s =>
    match step s with
    | .next t => (serialActOf s).toList ++ serialTrace k t
    | _ => []

end Sys2Proof.Machine
end

