-- ==== Sys2Proof/WellFormed.lean ====
section
/-! DEFINITION. Well-formed instructions: the contract the spec puts on operands. There is one check. Every other operand
value is a legal encoding: all 256 register ids (30_encoding.md R80), every reply byte, and every descriptor, malformed
ones among them (R82, 42_voltage_scaler.md R165). -/

namespace Sys2Proof

/-- The contract of REGISTER_ID_FOR: `line` is one of the lines 0 to 7 (30_encoding.md R81). -/
def lineInContract (line : Byte) : Bool := decide (line.toNat < Config.nLines)

/-- An instruction inside its contract. -/
def Instr.wellFormed : Instr → Bool
  | .encodeCommand _ => true
  | .decodeReply _ _ _ => true
  | .registerIdFor line _ => lineInContract line
  | .performTransaction _ => true
  | .readRaw _ => true
  | .readScale _ => true
  | .sampleSE0 _ => true
  | .sampleSE1 _ => true
  | .sampleSE2 _ => true
  | .sampleSE3 _ => true
  | .sampleSE4 _ => true
  | .sampleSE5 _ => true
  | .sampleSE6 _ => true
  | .sampleSE7 _ => true
  | .sampleDIFF0_1 _ => true
  | .sampleDIFF1_0 _ => true
  | .sampleDIFF2_3 _ => true
  | .sampleDIFF3_2 _ => true
  | .sampleDIFF4_5 _ => true
  | .sampleDIFF5_4 _ => true
  | .sampleDIFF6_7 _ => true
  | .sampleDIFF7_6 _ => true

end Sys2Proof
end

