-- ==== Sys2Proof/Certificates/Slice0/Obligations.lean ====
section
/-! DEFINITION. The statements for the provers. Each says which rule of the spec it formalises. -/

open Sys2Proof Sys2Proof.Machine

/-! ### Encodings -/

/-- 30_encoding.md R88: the example words decode to the requests they stand for. -/
def Obligations.ExampleWordsDecode : Prop :=
  decodeReq 0x80030000 = .ok (.readRaw (.se 3)) ∧
  decodeReq 0x98000100 = .ok (.readRaw (.df 0 1)) ∧
  decodeReq 0x98010000 = .ok (.readRaw (.df 1 0)) ∧
  decodeReq 0xA0000000 = .ok (.readScale (.se 0)) ∧
  decodeReq 0x40000301 = .ok (.registerIdFor 3 true) ∧
  decodeReq 0x40000000 = .ok (.registerIdFor 0 false) ∧
  decodeReq 0x000000B0 = .ok (.encodeCommand 0xB0) ∧
  decodeReq 0x20000234 = .ok (.decodeReply 0x00 0x02 0x34) ∧
  decodeReq 0x600000B0 = .ok (.performTransaction 0xB0)

/-- 30_encoding.md R84, R85, R86: the words of PERFORM_TRANSACTION, READ_RAW and READ_SCALE field by field, at every operand.
The request word is the spec's own encoding (92_eei_decisions.md D2, D10). -/
def Obligations.RequestWordsByField : Prop :=
  (∀ rid : Byte, decodeReq (0x60000000 ||| rid.setWidth 32) = .ok (.performTransaction rid)) ∧
  ∀ (diff : Bool) (p q : Byte),
    decodeReq (0x80000000 ||| (BitVec.ofBool diff).setWidth 32 <<< 28 ||| p.setWidth 32 <<< 16) =
      .ok (.readRaw ⟨diff, p, none⟩) ∧
    decodeReq (0x88000000 ||| (BitVec.ofBool diff).setWidth 32 <<< 28 ||| p.setWidth 32 <<< 16 |||
      q.setWidth 32 <<< 8) = .ok (.readRaw ⟨diff, p, some q⟩) ∧
    decodeReq (0xA0000000 ||| (BitVec.ofBool diff).setWidth 32 <<< 28 ||| p.setWidth 32 <<< 16) =
      .ok (.readScale ⟨diff, p, none⟩) ∧
    decodeReq (0xA8000000 ||| (BitVec.ofBool diff).setWidth 32 <<< 28 ||| p.setWidth 32 <<< 16 |||
      q.setWidth 32 <<< 8) = .ok (.readScale ⟨diff, p, some q⟩)

/-- Decode and encode agree, for every instruction at every operand. -/
def Obligations.DecodeOfEncodeIsTheInstruction : Prop :=
  ∀ i : Instr, decode (encode i) = .ok i

/-- A word has one meaning: whatever the decoder accepts is the encoding of what it reads. -/
def Obligations.AcceptedCodeIsTheEncoding : Prop :=
  ∀ (c : Code) (i : Instr), decode c = .ok i → encode i = c

/-- 30_encoding.md R87: which words the request decoder refuses, and why, in the terms of the opcode table's match and
mask. Every other word decodes. The decoder answers one reason where several hold: the first in R87's order (the model's
choice, assumption log 12). -/
def Obligations.RequestDecoderRefusesExactly : Prop :=
  ∀ w : ReqWord,
    let rows : List (ReqWord × ReqWord) :=
      [(0xFFFFFF00, 0x00000000), (0xFF000000, 0x20000000), (0xFFFF00FE, 0x40000000),
       (0xFFFFFF00, 0x60000000), (0xE70000FF, 0x80000000), (0xE70000FF, 0xA0000000)]
    let reservedOp := w &&& 0xE0000000 = 0xC0000000 ∨ w &&& 0xE0000000 = 0xE0000000
    let matched := ∃ r ∈ rows, w &&& r.1 = r.2
    let pairWithoutHp := (w &&& 0xE0000000 = 0x80000000 ∨ w &&& 0xE0000000 = 0xA0000000) ∧
      w &&& 0x08000000 = 0 ∧ w &&& 0x0000FF00 ≠ 0
    (decodeReq w = .error .reservedOp ↔ reservedOp) ∧
    (decodeReq w = .error .reservedBitSet ↔ ¬ reservedOp ∧ ¬ matched) ∧
    (decodeReq w = .error .pairWithoutHp ↔ matched ∧ pairWithoutHp) ∧
    ((∃ i, decodeReq w = .ok i) ↔ matched ∧ ¬ pairWithoutHp)

/-- 20_memory.md R54: the 24-bit packing puts the first byte in the most significant place, and is undone by unpacking. -/
def Obligations.FramePackingPutsFirstByteHighest : Prop :=
  ∀ c : Bytes3,
    c.pack24.extractLsb' 16 8 = c.b0 ∧ c.pack24.extractLsb' 8 8 = c.b1 ∧ c.pack24.extractLsb' 0 8 = c.b2 ∧
    Bytes3.ofPacked c.pack24 = c

/-- 30_encoding.md R76: the sixteen channels, their register ids, pairwise distinct, and their commands with the default
filler as 24-bit numbers; and with any filler each wire command is the codec's command for its channel's register id. -/
def Obligations.ChannelCommandTable : Prop :=
  ((wireCommands 0x00).map fun p => (p.2.1, p.2.2, (encodeCommand 0x00 p.2.2).pack24)) =
    [(.se 0, 0x80, 0x018000), (.se 1, 0x90, 0x019000), (.se 2, 0xA0, 0x01A000), (.se 3, 0xB0, 0x01B000),
     (.se 4, 0xC0, 0x01C000), (.se 5, 0xD0, 0x01D000), (.se 6, 0xE0, 0x01E000), (.se 7, 0xF0, 0x01F000),
     (.df 0 1, 0x00, 0x010000), (.df 1 0, 0x10, 0x011000), (.df 2 3, 0x20, 0x012000), (.df 3 2, 0x30, 0x013000),
     (.df 4 5, 0x40, 0x014000), (.df 5 4, 0x50, 0x015000), (.df 6 7, 0x60, 0x016000), (.df 7 6, 0x70, 0x017000)] ∧
  ((wireCommands 0x00).map fun p => p.2.2).Nodup ∧
  ∀ (filler : Byte), ∀ p ∈ wireCommands filler,
    ridOf p.2.1 = some p.2.2 ∧ encode p.1 = .cmd (encodeCommand filler p.2.2)

/-- 30_encoding.md R89, R90: lines of the textual syntax, with and without a caller, a channel's name, and a malformed
descriptor. That white space separates, and that a number of 256 or more makes a line assemble to none, is the model's
choice (assumption log 18). -/
def Obligations.TextAssemblesToItsWord : Prop :=
  assembleEvent "read_raw se(3)" = some (.issue 0 0x80030000) ∧
  assembleEvent "c1: read_raw DIFF6_7" = some (.issue 1 0x98060700) ∧
  assembleEvent "read_scale desc(0,3,3)" = some (.issue 0 0xA8030300) ∧
  assembleEvent "c0: read_raw desc(0,8,-)" = some (.issue 0 0x80080000) ∧
  assembleEvent "register_id_for 3, se" = some (.issue 0 0x40000301) ∧
  assembleEvent "decode_reply 0x12, 0xFD, 0x80" = some (.issue 0 0x2012FD80) ∧
  assembleEvent "encode_command 0xB0" = some (.issue 0 0x000000B0) ∧
  assembleEvent "perform_transaction 255" = some (.issue 0 0x600000FF) ∧
  assembleEvent "encode_command 256" = none

/-! ### The pure functions -/

/-- 40_codec.md R104: the three laws of the codec. -/
def Obligations.CodecLaws : Prop :=
  (∀ (line line' : Byte) (se se' : Bool), line.toNat ≤ 7 → line'.toNat ≤ 7 →
    registerIdFor line se = registerIdFor line' se' → line = line' ∧ se = se') ∧
  (∀ (s : Sample) (b0 : Byte),
    decodeReply ⟨b0, ((s >>> 8) &&& 0b11).setWidth 8, (s &&& 0xFF).setWidth 8⟩ = s) ∧
  (∀ filler r : Byte, (encodeCommand filler r).b0 = 0x01 ∧ (encodeCommand filler r).b1 = r)

/-- 30_encoding.md R74, R77: the layout of every register id the mapper produces: the mode in bit 7, 1 for single-ended
and 0 for differential; the line in bits 6:4; zero in bits 3:0. -/
def Obligations.RegisterIdLayout : Prop :=
  ∀ d ∈ channelTable, ∃ rid, ridOf d = some rid ∧ rid.getLsbD 7 = !d.diff ∧
    rid.extractLsb' 4 3 = d.primary.setWidth 3 ∧ rid.extractLsb' 0 4 = 0

/-- 20_memory.md R52, 30_encoding.md R79: the sample is the two low bits of reply byte 1 over reply byte 2. -/
def Obligations.SampleBitsOfReply : Prop :=
  ∀ r : Bytes3,
    (decodeReply r).toNat = ((r.b1.toNat &&& 0b00000011) <<< 8) ||| r.b2.toNat ∧ (decodeReply r).toNat ≤ 1023 ∧
    (decodeReply r).extractLsb' 8 2 = r.b1.extractLsb' 0 2 ∧ (decodeReply r).extractLsb' 0 8 = r.b2

/-- 30_encoding.md R78: the layout of a reply: bits 1:0 of byte 1 are sample bits 9:8, byte 2 is sample bits 7:0, and
byte 0 and bits 7:2 of byte 1 are ignored, and nothing else is. -/
def Obligations.DecoderIgnoresExactly : Prop :=
  ∀ r r' : Bytes3,
    (∀ k : Fin 2, (decodeReply r).getLsbD (8 + k) = r.b1.getLsbD k) ∧
    (∀ k : Fin 8, (decodeReply r).getLsbD k = r.b2.getLsbD k) ∧
    (decodeReply r = decodeReply r' ↔ r.b1.extractLsb' 0 2 = r'.b1.extractLsb' 0 2 ∧ r.b2 = r'.b2)

/-- 41_channel_mapper.md R131: a descriptor is valid exactly when it is one of the sixteen table entries. -/
def Obligations.ValidExactlyTableEntries : Prop :=
  ∀ d : Desc,
    (validDesc d = true ↔ d ∈ channelTable) ∧
    (validDesc d = true ↔ (d.diff = false ∧ d.primary.toNat ≤ 7 ∧ d.pair = none) ∨
      (d.diff = true ∧ d.primary.toNat ≤ 7 ∧ d.pair = some (d.primary ^^^ 1)))

/-- 41_channel_mapper.md R132: a valid descriptor maps to its primary line and its mode; the paired index is never
encoded; DIFF0_1 and DIFF1_0 differ. -/
def Obligations.MapperOperands : Prop :=
  (∀ d : Desc, validDesc d = true → ∃ rid, ridOf d = some rid ∧ registerIdFor d.primary (!d.diff) = some rid) ∧
  (∀ d d' : Desc, validDesc d = true → validDesc d' = true → d.primary = d'.primary → d.diff = d'.diff →
    ridOf d = ridOf d') ∧
  ridOf (.df 0 1) = some 0x00 ∧ ridOf (.df 1 0) = some 0x10

/-- 20_memory.md R59: the sixteen register ids the mapper produces, and no other. -/
def Obligations.MapperProducesSixteenIds : Prop :=
  ∀ rid : Byte, (∃ d, ridOf d = some rid) ↔
    rid ∈ ([0x00, 0x10, 0x20, 0x30, 0x40, 0x50, 0x60, 0x70, 0x80, 0x90, 0xA0, 0xB0, 0xC0, 0xD0, 0xE0, 0xF0] : List Byte)

/-- 60_exceptions.md R181: the codes of the statuses. -/
def Obligations.StatusCodes : Prop :=
  Status.code .ok = 0 ∧ Status.code .transportError = 1 ∧ Status.code .invalidChannel = 2 ∧
  Status.code .regulatorUnavailable = 3 ∧ Status.code .regulatorEnableFailed = 4

/-- 42_voltage_scaler.md R160, R164: the response to `V` millivolts denotes `V / 1024` millivolts per LSB exactly, and a
sample with it denotes `s * V / 1024` millivolts. -/
def Obligations.ScaleDenotesMillivoltsPerLsb : Prop :=
  ∀ (mv : Millivolts) (s : Sample), ∃ n e, scaleResponse (.ok mv) = ⟨.ok, .scale n e⟩ ∧
    scaleDenotes n e = (mv : ℚ) / 1024 ∧ voltageDenotes s n e = (s.toNat : ℚ) * mv / 1024

/-! ### Requests: where each completes, and with what -/

/-- 40_codec.md R101: the encoding of ENCODE_COMMAND (92_eei_decisions.md D2), and that it completes for every register id
with the command as its response and nothing else changed. -/
def Obligations.EncodeCommandCompletes : Prop :=
  ∀ rid : Byte,
    decodeReq (rid.setWidth 32) = .ok (.encodeCommand rid) ∧
    ∀ s : State, Ready s →
      exec (.encodeCommand rid) s =
        .next (s.setPhase s.who (.done ⟨.ok, .command ⟨0x01, rid, s.params.fillerByte⟩⟩))

/-- 40_codec.md R102: the encoding of DECODE_REPLY, and that it completes for every reply with the sample as its response
and nothing else changed. -/
def Obligations.DecodeReplyCompletes : Prop :=
  ∀ r0 r1 r2 : Byte,
    decodeReq (0x20000000 ||| r0.setWidth 32 <<< 16 ||| r1.setWidth 32 <<< 8 ||| r2.setWidth 32) =
      .ok (.decodeReply r0 r1 r2) ∧
    ∀ s : State, Ready s → ∃ v : Sample, v.toNat = ((r1.toNat &&& 0b00000011) <<< 8) ||| r2.toNat ∧
      exec (.decodeReply r0 r1 r2) s = .next (s.setPhase s.who (.done ⟨.ok, .sample v⟩))

/-- 40_codec.md R103: the encoding of REGISTER_ID_FOR; for a line of 0 to 7 it completes with the register id as its
response and nothing else changed, and above 7 it is refused. -/
def Obligations.RegisterIdForCompletesOrIsRefused : Prop :=
  ∀ (line : Byte) (se : Bool),
    decodeReq (0x40000000 ||| line.setWidth 32 <<< 8 ||| (BitVec.ofBool se).setWidth 32) = .ok (.registerIdFor line se) ∧
    ∀ s : State, Ready s →
      (line.toNat ≤ 7 → ∃ rid : Byte, rid.toNat = ((if se then 1 else 0) <<< 7) ||| (line.toNat <<< 4) ∧
        exec (.registerIdFor line se) s = .next (s.setPhase s.who (.done ⟨.ok, .registerId rid⟩))) ∧
      (7 < line.toNat → exec (.registerIdFor line se) s = .refused .lineOutOfContract)

/-- 40_codec.md R105, its issue step: every register id is accepted and waits for the lock; nothing else changes. -/
def Obligations.PerformTransactionIssues : Prop :=
  ∀ (rid : Byte) (s : State), Ready s →
    exec (.performTransaction rid) s = .next (s.setPhase s.who (.waitLock rid))

/-- 41_channel_mapper.md R133, its issue step on a valid descriptor: the descriptor's register id waits for the lock;
nothing else changes. -/
def Obligations.ReadRawIssuesItsRegister : Prop :=
  ∀ (d : Desc) (s : State), Ready s → d ∈ channelTable → ∃ rid, registerIdFor d.primary (!d.diff) = some rid ∧
    exec (.readRaw d) s = .next (s.setPhase s.who (.waitLock rid))

/-- 41_channel_mapper.md R134: an invalid descriptor completes in the issue step, takes no lock, writes no buffer and
makes no transport call: nothing but the caller's phase changes. -/
def Obligations.InvalidReadRawCompletesAtIssue : Prop :=
  ∀ (d : Desc) (s : State), Ready s → d ∉ channelTable →
    exec (.readRaw d) s = .next (s.setPhase s.who (.done ⟨.invalidChannel, .unit⟩))

/-- 42_voltage_scaler.md R163, R166, R167: READ_SCALE completes in its one step with exactly one of the regulator's
answers: any `VREF_W`-bit millivolts unchanged over exponent 10, or any `RERR_W`-bit code unchanged. That it does so for
every descriptor is 92_eei_decisions.md D11; that nothing else changes but the list of answers, whatever the lock holds, is
92_eei_decisions.md D12. -/
def Obligations.ReadScaleReportsTheRegulator : Prop :=
  ∀ (d : Desc) (s : State) (answer : MvAnswer) (rest : List MvAnswer), Ready s → s.mvAnswers = answer :: rest →
    mvFits s.params answer = true →
    exec (.readScale d) s = .next ({ s with mvAnswers := rest }.setPhase s.who (.done (match answer with
      | .ok mv => ⟨.ok, .scale mv 10⟩
      | .err code => ⟨.regulatorUnavailable, .regulatorCode code⟩)))

/-- READ_SCALE completes with no answer listed too, with a free value as the regulator's answer, of which nothing is
claimed but that it has the parameters' widths and that the response is of it (assumption log 3). -/
def Obligations.ReadScaleCompletesOnFreeAnswers : Prop :=
  ∀ (d : Desc) (s : State), Ready s → s.mvAnswers = [] → ∃ answer : MvAnswer, mvFits s.params answer = true ∧
    exec (.readScale d) s = .next ({ s with draws := s.draws + 1 }.setPhase s.who (.done (match answer with
      | .ok mv => ⟨.ok, .scale mv 10⟩
      | .err code => ⟨.regulatorUnavailable, .regulatorCode code⟩)))

/-- 42_voltage_scaler.md R165: READ_SCALE does not read its descriptor, and no READ_SCALE step ends in INVALID_CHANNEL. -/
def Obligations.ReadScaleIgnoresItsDescriptor : Prop :=
  ∀ (d d' : Desc) (s : State), exec (.readScale d) s = exec (.readScale d') s ∧
    ∀ (t : State) (v : Value), Ready s → exec (.readScale d) s = .next t →
      t.phaseOf s.who ≠ .done ⟨.invalidChannel, v⟩

/-- Every request inside its contract completes its issue step for a caller that is ready, and leaves that caller waiting
for the lock or with its response. -/
def Obligations.WellFormedRequestsComplete : Prop :=
  ∀ (i : Instr) (s : State), isRequest i = true → i.wellFormed = true → Ready s →
    ∃ t, exec i s = .next t ∧ ((∃ rid, t.phaseOf s.who = .waitLock rid) ∨ ∃ r, r.fits s.params = true ∧ t.phaseOf s.who = .done r)

/-! ### Wire commands -/

/-- 30_encoding.md R76 with 40_codec.md R107: each of the sixteen wire commands, when it is the command of the caller's
outstanding transfer, completes that transfer: the sample or the transport's error code as the response, the reply in
`rx` or `rx` unwritten (92_eei_decisions.md D8), the lock free, `tx` unchanged. The answer has the parameters' width; it is
the list's first and, with none listed, a free value of which nothing more is claimed (assumption log 3). That a wire
command's effect is its transfer's completion is the model's reading (assumption log 10). -/
def Obligations.WireCommandsCompleteTheirTransfer : Prop :=
  ∀ (filler : Byte), ∀ p ∈ wireCommands filler, ∀ (s : State) (rid : Byte),
    s.phaseOf s.who = .inXfer rid → s.xfer = some ⟨0x01, p.2.2, filler⟩ →
    ∃ t answer, exec p.1 s = .next t ∧ xferFits s.params answer = true ∧
      t.phaseOf s.who = .done (transactionResponse answer) ∧ rxAfter t.rx answer ∧
      t.lock = none ∧ t.xfer = none ∧ t.tx = s.tx ∧
      (∀ a rest, s.xferAnswers = a :: rest → t.xferAnswers = rest ∧ t.draws = s.draws ∧
        (xferFits s.params a = true → answer = a)) ∧
      (s.xferAnswers = [] → t.xferAnswers = [] ∧ t.draws = s.draws + 1)

/-- 60_exceptions.md R195: the transport answers only an outstanding transfer. A wire command that is not the caller's
outstanding command does nothing. The model's reading of a wire command off the wire (assumption log 10). -/
def Obligations.WireCommandsOffTheWireDoNothing : Prop :=
  ∀ (filler : Byte), ∀ p ∈ wireCommands filler, ∀ s : State,
    (s.xfer ≠ some ⟨0x01, p.2.2, filler⟩ ∨ ∀ rid, s.phaseOf s.who ≠ .inXfer rid) → exec p.1 s = .next s

/-! ### The steps of a transaction -/

/-- 40_codec.md R106: the acquire step takes the lock, writes all three bytes of `tx`, issues the transfer with them, and
moves the caller; nothing else changes. -/
def Obligations.AcquireStep : Prop :=
  ∀ (s : State) (c : CallerId) (rid : Byte) (rest : List Event), s.agenda = .acquire c :: rest →
    s.life = .attached → s.phaseOf c = .waitLock rid → s.lock = none →
    ∃ tx, memRead3 .tx tx = .ok ⟨0x01, rid, s.params.fillerByte⟩ ∧
      step s = .next (({ s with agenda := rest, who := c, lock := some c, tx := tx,
                                xfer := some ⟨0x01, rid, s.params.fillerByte⟩ }).setPhase c (.inXfer rid))

/-- 20_memory.md R62: any waiting caller may take a free lock, and a waiting caller blocks while the lock is held. That its
attempt while the lock is held is dropped, and leaves all else alone, is the model's choice (assumption log 5). -/
def Obligations.AnyWaiterTakesOnlyAFreeLock : Prop :=
  ∀ (s : State) (c : CallerId) (rid : Byte) (rest : List Event), s.agenda = .acquire c :: rest →
    s.life = .attached → s.phaseOf c = .waitLock rid →
    (s.lock = none → ∃ t, step s = .next t ∧ t.lock = some c ∧ t.phaseOf c = .inXfer rid) ∧
    (∀ d, s.lock = some d → step s = .next { s with agenda := rest, who := c })

/-- 40_codec.md R107: the completion step, for every register id: on success the reply in `rx`, the sample as response; on
failure `rx` unwritten (92_eei_decisions.md D8), the transport's `TERR_W`-bit code as response; in both the lock free and
`tx` unchanged; with no answer listed, likewise for a free value (assumption log 3). Nothing else changes. The invariant
says that an outstanding transfer has its command on the wire. -/
def Obligations.CompletionStep : Prop :=
  ∀ (s : State) (c : CallerId) (rid : Byte) (rest : List Event) (answers : List XferAnswer), Inv s →
    s.agenda = .complete c :: rest → s.phaseOf c = .inXfer rid →
    (∀ reply, s.xferAnswers = .ok reply :: answers →
      ∃ rx, memRead3 .rx rx = .ok reply ∧
        step s = .next (({ s with agenda := rest, who := c, xferAnswers := answers, rx := rx, lock := none,
                                  xfer := none }).setPhase c (.done ⟨.ok, .sample (decodeReply reply)⟩))) ∧
    (∀ code, code < 2 ^ s.params.terrWidth → s.xferAnswers = .err code :: answers →
      step s = .next (({ s with agenda := rest, who := c, xferAnswers := answers, rx := [], lock := none,
                                xfer := none }).setPhase c (.done ⟨.transportError, .transportCode code⟩))) ∧
    (s.xferAnswers = [] → ∃ answer rx, xferFits s.params answer = true ∧ rxAfter rx answer ∧
      step s = .next (({ s with agenda := rest, who := c, draws := s.draws + 1, rx := rx, lock := none,
                                xfer := none }).setPhase c (.done (transactionResponse answer))))

/-- 40_codec.md R105, R108: the uninterrupted run of a PERFORM_TRANSACTION: issued, acquired and completed in consecutive
events, on a free lock, with an answer listed. Three steps use exactly one transport answer; the command sent is the register
id's, all three bytes of it written to `tx` (92_eei_decisions.md D6); the response is that answer's, and `rx` holds the reply
or is unwritten after a failure (92_eei_decisions.md D8). For runs with other steps in between see
TransferIssuedOnceByItsAcquire and RunsAreSerialRuns. -/
def Obligations.PerformTransactionRuns : Prop :=
  ∀ (s : State) (c : CallerId) (rid : Byte) (rest : List Event) (answer : XferAnswer) (answers : List XferAnswer),
    ReadyFor s c → s.lock = none →
    s.agenda = .issue c (0x60000000 ||| rid.setWidth 32) :: .acquire c :: .complete c :: rest →
    s.xferAnswers = answer :: answers → xferFits s.params answer = true →
    (∃ m, Sys2Proof.core.run 2 s = .next m ∧ m.xfer = some ⟨0x01, rid, s.params.fillerByte⟩ ∧ m.lock = some c ∧
      m.xferAnswers = s.xferAnswers) ∧
    ∃ t, Sys2Proof.core.run 3 s = .next t ∧ t.phaseOf c = .done (transactionResponse answer) ∧
      memRead3 .tx t.tx = .ok ⟨0x01, rid, s.params.fillerByte⟩ ∧ rxAfter t.rx answer ∧ t.lock = none ∧ t.xfer = none ∧
      t.xferAnswers = answers ∧ t.agenda = rest ∧ ∀ c', c' ≠ c → t.phaseOf c' = s.phaseOf c'

/-- 41_channel_mapper.md R133, R135: the uninterrupted run of a READ_RAW of a table descriptor, likewise: it sends its
channel's command, uses exactly one transport answer, and responds with that answer's sample or error; `tx` as in
92_eei_decisions.md D6, and `rx` unwritten after a failure as in D8. -/
def Obligations.ReadRawRuns : Prop :=
  ∀ (s : State) (c : CallerId) (w : ReqWord) (d : Desc) (rid : Byte) (rest : List Event) (answer : XferAnswer)
    (answers : List XferAnswer),
    ReadyFor s c → s.lock = none → decodeReq w = .ok (.readRaw d) → d ∈ channelTable →
    registerIdFor d.primary (!d.diff) = some rid →
    s.agenda = .issue c w :: .acquire c :: .complete c :: rest → s.xferAnswers = answer :: answers →
    xferFits s.params answer = true →
    ∃ t, Sys2Proof.core.run 3 s = .next t ∧ t.phaseOf c = .done (transactionResponse answer) ∧
      memRead3 .tx t.tx = .ok ⟨0x01, rid, s.params.fillerByte⟩ ∧ rxAfter t.rx answer ∧ t.lock = none ∧ t.xfer = none ∧
      t.xferAnswers = answers ∧ t.agenda = rest ∧ ∀ c', c' ≠ c → t.phaseOf c' = s.phaseOf c'

/-- 20_memory.md R63, 60_exceptions.md R191 (the source's scenario 4), as an uninterrupted run: a READ_RAW fails with the
transport's code and no sample, and `rx` is unwritten (92_eei_decisions.md D8); the caller takes the response; the next
READ_RAW of the same channel succeeds. -/
def Obligations.FailureThenRecovery : Prop :=
  ∀ (s : State) (c : CallerId) (w : ReqWord) (d : Desc) (rest : List Event) (code : TransportCode) (reply : Bytes3)
    (answers : List XferAnswer),
    ReadyFor s c → s.lock = none → decodeReq w = .ok (.readRaw d) → d ∈ channelTable →
    s.agenda = .issue c w :: .acquire c :: .complete c :: .take c :: .issue c w :: .acquire c :: .complete c :: rest →
    s.xferAnswers = .err code :: .ok reply :: answers → code < 2 ^ s.params.terrWidth →
    (∃ t, Sys2Proof.core.run 3 s = .next t ∧ t.phaseOf c = .done ⟨.transportError, .transportCode code⟩ ∧
      t.lock = none ∧ t.rx = []) ∧
    (∃ t, Sys2Proof.core.run 4 s = .next t ∧ t.phaseOf c = .idle) ∧
    ∃ t, Sys2Proof.core.run 7 s = .next t ∧ t.phaseOf c = .done ⟨.ok, .sample (decodeReply reply)⟩ ∧
      t.lock = none ∧ memRead3 .rx t.rx = .ok reply

/-- 10_state.md R27, 60_exceptions.md R191: a caller takes its response and is idle; nothing else changes. That a caller
with no response takes nothing, its attempt dropped, is the model's choice (assumption log 5). -/
def Obligations.TakeStep : Prop :=
  ∀ (s : State) (c : CallerId) (rest : List Event), s.agenda = .take c :: rest →
    (∀ r, s.phaseOf c = .done r → step s = .next ({ s with agenda := rest, who := c }.setPhase c .idle)) ∧
    ((∀ r, s.phaseOf c ≠ .done r) → step s = .next { s with agenda := rest, who := c })

/-! ### Attach, detach, reset -/

/-- 10_state.md R45 and 70_reset_and_hazards.md R221: the state after reset, read as the state after a successful attach
(assumption log 1). The filler and the width of the reference voltage are the spec's defaults (92_eei_decisions.md D5, D17).
The handles, the number of callers, the error codes' widths and the model's own fields are not claimed here. -/
def Obligations.ResetIsTheAttachedState : Prop :=
  State.reset.life = .attached ∧ State.reset.lock = none ∧
  (∀ i : Fin 3, readByte .tx State.reset.tx i = .error (.unwrittenByte .tx i)) ∧
  (∀ i : Fin 3, readByte .rx State.reset.rx i = .error (.unwrittenByte .rx i)) ∧
  (∀ c, State.reset.phaseOf c = .idle) ∧ State.reset.params.fillerByte = 0x00 ∧
  State.reset.params.vrefWidth = 32

/-- 70_reset_and_hazards.md R221: attach enables the regulator once; on success the instance of 10_state.md R45 exists
with the handles given; on failure the outcome is REGULATOR_ENABLE_FAILED with the `RERR_W`-bit code, and the device stays
detached (92_eei_decisions.md D18). Nothing else changes. With no answer listed it is one or the other (assumption log 3). -/
def Obligations.AttachStep : Prop :=
  ∀ (s : State) (h : Handles) (rest : List Event) (answers : List EnableAnswer), s.agenda = .attach h :: rest →
    s.life = .detached →
    (s.enableAnswers = .ok :: answers →
      step s = .next { s with agenda := rest, enableAnswers := answers, life := .attached, lock := none, tx := [], rx := [],
                              phases := [], handles := some h, attachError := none, xfer := none }) ∧
    (∀ code, code < 2 ^ s.params.rerrWidth → s.enableAnswers = .err code :: answers → ∃ t,
      step s = .next t ∧ t = { s with agenda := rest, enableAnswers := answers, attachError := some code } ∧
      t.attachOutcome = some ⟨.regulatorEnableFailed, .regulatorCode code⟩) ∧
    (s.enableAnswers = [] → ∃ t, step s = .next t ∧ t.draws = s.draws + 1 ∧
      ((t.life = .attached ∧ t.handles = some h ∧ t.attachOutcome = none) ∨
       (t.life = .detached ∧ ∃ code, t.attachOutcome = some ⟨.regulatorEnableFailed, .regulatorCode code⟩)))

/-- 70_reset_and_hazards.md R223: detach, with the lock free and every caller idle, discards the instance and nothing
else; while any caller is not idle it is refused. -/
def Obligations.DetachStep : Prop :=
  ∀ (s : State) (rest : List Event), s.agenda = .detach :: rest → s.life = .attached →
    (s.lock = none → (∀ c, s.phaseOf c = .idle) →
      step s = .next { s with agenda := rest, life := .detached, lock := none, tx := [], rx := [], phases := [],
                              handles := none, attachError := none, xfer := none }) ∧
    ((∃ c, s.phaseOf c ≠ .idle) → step s = .refused .detachBusy)

/-- 70_reset_and_hazards.md R224: after a detach and a later attach the instance holds the values of 10_state.md R45,
whatever the earlier instance held. -/
def Obligations.NothingSurvivesDetach : Prop :=
  ∀ (s : State) (h : Handles) (rest : List Event) (answers : List EnableAnswer),
    s.agenda = .detach :: .attach h :: rest → s.life = .attached → s.lock = none → (∀ c, s.phaseOf c = .idle) →
    s.enableAnswers = .ok :: answers →
    ∃ t, Sys2Proof.core.run 2 s = .next t ∧ t.life = .attached ∧ t.lock = none ∧
      (∀ i : Fin 3, readByte .tx t.tx i = .error (.unwrittenByte .tx i)) ∧
      (∀ i : Fin 3, readByte .rx t.rx i = .error (.unwrittenByte .rx i)) ∧
      (∀ c, t.phaseOf c = .idle) ∧ t.handles = some h ∧ t.xfer = none

/-- 10_state.md R22: while no instance exists every request is refused, as an instruction and as a request word. That the
reason is `not_attached` where the word is malformed, the line above 7 or the caller none too is the model's choice
(assumption log 19). -/
def Obligations.DetachedRefusesEveryRequest : Prop :=
  ∀ s : State, s.life = .detached →
    (∀ i : Instr, isRequest i = true → exec i s = .refused .notAttached) ∧
    (∀ (c : CallerId) (w : ReqWord) (rest : List Event), s.agenda = .issue c w :: rest → step s = .refused .notAttached)

/-! ### The step -/

/-- A step runs the decoded instruction: a ready caller's request word that decodes to `i` runs as `exec i`, with that
caller as the one whose step is taken and the request gone from the agenda; and an outstanding command that decodes to
`i` runs as `exec i` at the transport's completion. That a completion runs as the wire command that is on the wire is the
model's choice (assumption log 10). -/
def Obligations.StepRunsTheDecodedInstruction : Prop :=
  (∀ (s : State) (c : CallerId) (w : ReqWord) (rest : List Event) (i : Instr), s.agenda = .issue c w :: rest →
    ReadyFor s c → decodeReq w = .ok i → step s = exec i { s with agenda := rest, who := c }) ∧
  (∀ (s : State) (c : CallerId) (cmd : Bytes3) (rid : Byte) (rest : List Event) (i : Instr),
    s.agenda = .complete c :: rest → s.phaseOf c = .inXfer rid → s.xfer = some cmd → decodeCmd cmd = .ok i →
    step s = exec i { s with agenda := rest, who := c })

/-- 10_state.md R36: a caller in a phase other than `idle` issues no new request. That the attempt is dropped, and not
kept for later, is the model's choice (assumption log 5). -/
def Obligations.BusyCallerIssuesNothing : Prop :=
  ∀ (s : State) (c : CallerId) (w : ReqWord) (rest : List Event), s.agenda = .issue c w :: rest → s.life = .attached →
    s.phaseOf c ≠ .idle → step s = .next { s with agenda := rest, who := c }

/-- 60_exceptions.md R198: a step is refused in the listed cases and in no other, each under its name. That a detach with
the lock held is refused as busy too is 92_eei_decisions.md D19. The model's choices: a malformed word, or a line above 7, of
a caller that is busy or does not exist is dropped and not refused (assumption log 5); while detached the reason is
`not_attached` whatever the word (assumption log 19); a word with several faults gets the first reason of R87's order
(assumption log 12). -/
def Obligations.RefusedExactlyAsListed : Prop :=
  ∀ (s : State) (r : Refusal), step s = .refused r ↔
    (∃ c w, s.drawEvent.1 = .issue c w ∧ s.life = .detached ∧ r = .notAttached) ∨
    (∃ c w, s.drawEvent.1 = .issue c w ∧ ReadyFor s c ∧
      ((decodeReq w = .error .reservedOp ∧ r = .reservedOp) ∨
       (decodeReq w = .error .reservedBitSet ∧ r = .reservedBitSet) ∨
       (decodeReq w = .error .pairWithoutHp ∧ r = .pairWithoutHp) ∨
       (∃ line se, decodeReq w = .ok (.registerIdFor line se) ∧ 7 < line.toNat ∧ r = .lineOutOfContract))) ∨
    (s.drawEvent.1 = .detach ∧ s.life = .attached ∧ (s.lock ≠ none ∨ ∃ c, s.phaseOf c ≠ .idle) ∧ r = .detachBusy)

/-- 10_state.md R45: no rule reads a buffer byte that is unwritten. No step faults, in any state. -/
def Obligations.NoStepFaults : Prop :=
  ∀ (s : State) (f : Fault), step s ≠ .fault f

/-! ### Frames -/

/-- 40_codec.md R100, 42_voltage_scaler.md R161: what the issue step of a request leaves alone: the lock, every byte of
both buffers, the outstanding transfer, every other caller's phase, the lifecycle, the handles, the parameters and the
environment's lists, but for the regulator's answers that a READ_SCALE uses. Holds for all six requests. -/
def Obligations.RequestFrame : Prop :=
  ∀ (i : Instr) (s t : State), isRequest i = true → exec i s = .next t →
    t.lock = s.lock ∧ (∀ j : Fin 3, readByte .tx t.tx j = readByte .tx s.tx j) ∧
    (∀ j : Fin 3, readByte .rx t.rx j = readByte .rx s.rx j) ∧ t.xfer = s.xfer ∧
    (∀ c, c ≠ s.who → t.phaseOf c = s.phaseOf c) ∧
    t.life = s.life ∧ t.handles = s.handles ∧ t.attachError = s.attachError ∧ t.params = s.params ∧ t.who = s.who ∧
    t.agenda = s.agenda ∧ t.xferAnswers = s.xferAnswers ∧ t.enableAnswers = s.enableAnswers ∧
    (isReadScale i = false → t.mvAnswers = s.mvAnswers ∧ t.draws = s.draws)

/-- 40_codec.md R107: what a wire command leaves alone: every byte of `tx`, every other caller's phase, the lifecycle, the
handles, the parameters and every list of the environment but the transport's answers. The bytes it stores are `rx[0..2]`,
all of `rx`. Where it is not the command of its caller's outstanding transfer, be it the wrong command or no transfer at
all, it stores nothing. Holds for all sixteen wire commands. That a wire command completes its transfer, and does nothing off
the wire, is the model's choice (assumption logs 5 and 10). -/
def Obligations.WireCommandFrame : Prop :=
  ∀ (i : Instr) (s t : State), isRequest i = false → exec i s = .next t →
    (∀ j : Fin 3, readByte .tx t.tx j = readByte .tx s.tx j) ∧
    (∀ c, c ≠ s.who → t.phaseOf c = s.phaseOf c) ∧
    ((∀ cmd rid, encode i = .cmd cmd → s.phaseOf s.who = .inXfer rid → s.xfer ≠ some cmd) →
      ∀ j : Fin 3, readByte .rx t.rx j = readByte .rx s.rx j) ∧
    t.life = s.life ∧ t.handles = s.handles ∧ t.attachError = s.attachError ∧ t.params = s.params ∧ t.who = s.who ∧
    t.agenda = s.agenda ∧ t.mvAnswers = s.mvAnswers ∧ t.enableAnswers = s.enableAnswers

/-- 00_scope.md R9, 10_state.md R34: no step writes the parameters, and the handles change only with the lifecycle. -/
def Obligations.ParametersAndHandlesAreFixed : Prop :=
  ∀ s t : State, step s = .next t → t.params = s.params ∧ (t.life = s.life → t.handles = s.handles)

/-! ### Invariants and whole-machine rules -/

/-- The invariant holds after reset. -/
def Obligations.ResetHasTheInvariant : Prop := Inv State.reset

/-- Every step keeps the invariant: canonical buffers and phases, at most one owner of the lock and that owner's command
on the wire and in `tx`, an empty device while detached, and responses of the right shape. -/
def Obligations.EveryStepKeepsTheInvariant : Prop :=
  ∀ s t : State, Inv s → step s = .next t → Inv t

/-- 10_state.md R23: the lock's holder is the caller with the one transfer in flight; only the acquire step of a
transaction sets the lock, for a caller that waited while it was free; and only the completion step of the owner's
transaction clears it. -/
def Obligations.LockChangesOnlyByItsTransaction : Prop :=
  ∀ s t : State, Inv s → step s = .next t →
    (∀ c, t.lock = some c ↔ ∃ rid, t.phaseOf c = .inXfer rid) ∧
    (∀ c c' rid rid', t.phaseOf c = .inXfer rid → t.phaseOf c' = .inXfer rid' → c = c') ∧
    (t.lock ≠ s.lock →
    (∃ c rid, s.drawEvent.1 = .acquire c ∧ s.lock = none ∧ s.phaseOf c = .waitLock rid ∧ t.lock = some c) ∨
    (∃ c rid r, s.drawEvent.1 = .complete c ∧ s.lock = some c ∧ s.phaseOf c = .inXfer rid ∧ t.lock = none ∧
      t.phaseOf c = .done r))

/-- 20_memory.md R57: while a transaction holds the lock, a step either leaves the lock, both buffers, the outstanding
transfer and the owner's phase alone, or is that transaction's completion. -/
def Obligations.TransactionIsAtomic : Prop :=
  ∀ (s t : State) (c : CallerId), Inv s → s.lock = some c → step s = .next t →
    (t.lock = some c ∧ t.tx = s.tx ∧ t.rx = s.rx ∧ t.xfer = s.xfer ∧ t.phaseOf c = s.phaseOf c) ∨
    (s.drawEvent.1 = .complete c ∧ t.lock = none ∧ t.tx = s.tx ∧ t.xfer = none ∧ ∃ r, t.phaseOf c = .done r)

/-- 20_memory.md R61: a step that changes a buffer of a device that stays attached is taken by the caller that holds the
lock, before the step or after it. -/
def Obligations.BuffersChangeOnlyUnderTheLock : Prop :=
  ∀ s t : State, Inv s → step s = .next t → t.life = s.life → t.tx ≠ s.tx ∨ t.rx ≠ s.rx →
    s.lock = some t.who ∨ t.lock = some t.who

/-- 10_state.md R27: in one step at most one caller's phase changes, along an edge of R27. -/
def Obligations.PhasesMoveAlongTheirEdges : Prop :=
  ∀ s t : State, Inv s → step s = .next t →
    (∀ c, t.phaseOf c = s.phaseOf c) ∨
    ∃ c, PhaseEdge (s.phaseOf c) (t.phaseOf c) ∧ ∀ c', c' ≠ c → t.phaseOf c' = s.phaseOf c'

/-- 60_exceptions.md R184: INVALID_CHANNEL is raised at the issue step of READ_RAW, exactly when the descriptor is not a
table entry, and by nothing else. -/
def Obligations.InvalidChannelRaisedExactlyByReadRaw : Prop :=
  (∀ (s t : State) (c : CallerId) (v : Value), step s = .next t → s.phaseOf c ≠ .done ⟨.invalidChannel, v⟩ →
    t.phaseOf c = .done ⟨.invalidChannel, v⟩ →
    ∃ w d, s.drawEvent.1 = .issue c w ∧ decodeReq w = .ok (.readRaw d) ∧ d ∉ channelTable ∧ v = .unit) ∧
  (∀ (s : State) (c : CallerId) (w : ReqWord) (d : Desc), s.drawEvent.1 = .issue c w → ReadyFor s c →
    decodeReq w = .ok (.readRaw d) → d ∉ channelTable →
    ∃ t, step s = .next t ∧ t.phaseOf c = .done ⟨.invalidChannel, .unit⟩)

/-- 60_exceptions.md R183: TRANSPORT_ERROR is raised at the completion step of a transaction, exactly when `Xfer` returns an
error, with the code it returned, and by nothing else. -/
def Obligations.TransportErrorRaisedExactlyByTheTransport : Prop :=
  (∀ (s t : State) (c : CallerId) (v : Value), step s = .next t → s.phaseOf c ≠ .done ⟨.transportError, v⟩ →
    t.phaseOf c = .done ⟨.transportError, v⟩ →
    ∃ rid code, s.drawEvent.1 = .complete c ∧ s.phaseOf c = .inXfer rid ∧ s.drawEvent.2.drawXfer.1 = .err code ∧
      v = .transportCode code) ∧
  (∀ (s : State) (c : CallerId) (rid : Byte), Inv s → s.drawEvent.1 = .complete c → s.phaseOf c = .inXfer rid →
    ∃ t, step s = .next t ∧ ∀ code, s.drawEvent.2.drawXfer.1 = .err code ↔
      t.phaseOf c = .done ⟨.transportError, .transportCode code⟩)

/-- 10_state.md R40, 70_reset_and_hazards.md R228: while the transport does not complete a caller's transfer, that caller
stays in it, the lock stays held and the buffers stay, whatever the others do. -/
def Obligations.HungTransferHoldsTheLock : Prop :=
  ∀ (k : Nat) (s t : State) (c : CallerId) (rid : Byte), Inv s → s.phaseOf c = .inXfer rid →
    k ≤ s.agenda.length → (∀ e ∈ s.agenda.take k, e ≠ .complete c) → Sys2Proof.core.run k s = .next t →
    t.phaseOf c = .inXfer rid ∧ t.lock = some c ∧ t.tx = s.tx ∧ t.rx = s.rx ∧ t.xfer = s.xfer

/-- 40_codec.md R106, R107, R108, one step at a time, whatever other callers do in between: a transfer is issued only by
the acquire step of a caller that waits for a free lock, with the command of that caller's register id; an outstanding
transfer stays as it is until the completion step of the caller that holds the lock, which ends in that caller's response to
the answer drawn; and no other step uses a transport answer. So a transaction makes one transfer and is not retried. -/
def Obligations.TransferIssuedOnceByItsAcquire : Prop :=
  ∀ s t : State, Inv s → step s = .next t →
    (∀ cmd, s.xfer = none → t.xfer = some cmd → ∃ c rid, s.drawEvent.1 = .acquire c ∧ s.lock = none ∧
      s.phaseOf c = .waitLock rid ∧ t.phaseOf c = .inXfer rid ∧ cmd = ⟨0x01, rid, s.params.fillerByte⟩) ∧
    (∀ cmd, s.xfer = some cmd → t.xfer = some cmd ∨ ∃ c, s.drawEvent.1 = .complete c ∧ s.lock = some c ∧
      t.xfer = none ∧ t.phaseOf c = .done (transactionResponse s.drawEvent.2.drawXfer.1)) ∧
    (t.xferAnswers ≠ s.xferAnswers → ∃ c rid, s.drawEvent.1 = .complete c ∧ s.phaseOf c = .inXfer rid)

/-- 20_memory.md R66: concurrent calls are linearizable, read as the callers' serial phases, where a transaction has no
steps of its own. Each step is at most one move of the serial machine, and that move is the step's own: the request its event
issues, decoded, with the regulator's answer drawn in that step; the whole transaction of the caller that holds the lock, with
the transport's answer drawn in that step; or the response its event takes. Every run is then the serial machine's run on
those moves in their order, each possible where it is made. The serial machine has no lock, no buffers and no outstanding
transfer. -/
def Obligations.RunsAreSerialRuns : Prop :=
  (∀ s t : State, Inv s → step s = .next t →
    (∀ c w i, s.drawEvent.1 = .issue c w → ReadyFor s c → decodeReq w = .ok i → s.serial c = .idle ∧
      ∃ q, serialIssue s.params.fillerByte s.drawEvent.2.drawMv.1 i = some q ∧
        t.serial = Function.update s.serial c q) ∧
    (∀ c rid, s.drawEvent.1 = .complete c → s.phaseOf c = .inXfer rid → s.lock = some c ∧ s.serial c = .pending rid ∧
      t.serial = Function.update s.serial c (.done (transactionResponse s.drawEvent.2.drawXfer.1))) ∧
    (∀ c r, s.drawEvent.1 = .take c → s.phaseOf c = .done r → t.serial = Function.update s.serial c .idle) ∧
    (t.serial = s.serial ∨ (∃ c w i, s.drawEvent.1 = .issue c w ∧ ReadyFor s c ∧ decodeReq w = .ok i) ∨
      (∃ c rid, s.drawEvent.1 = .complete c ∧ s.phaseOf c = .inXfer rid) ∨
      ∃ c r, s.drawEvent.1 = .take c ∧ s.phaseOf c = .done r)) ∧
  ∀ (k : Nat) (s t : State), Inv s → Sys2Proof.core.run k s = .next t →
    serialRun s.params.fillerByte s.serial (serialTrace k s) = some t.serial

/-- 10_state.md R35, 00_scope.md R9: there is at least one device, and devices are independent. A step of device `k` is
that device's own step, and changes no other (92_eei_decisions.md D24). -/
def Obligations.DevicesAreIndependent : Prop :=
  ∀ (k : Nat) (d d' : Instances) (s : State), 1 ≤ d.count ∧ (d.get? k = some s → stepDevice k d = .next d' →
    ∃ t, step s = .next t ∧ d'.get? k = some t ∧ d'.count = d.count ∧ ∀ j, j ≠ k → d'.get? j = d.get? j)
end

