-- ==== Sys2Proof/Laws/PerInstr.lean ====
section
/-! SUPPORT. The per-instruction laws: every instruction's encoding has the bits that its opcode-table row fixes, at every
operand. -/

namespace Sys2Proof.Laws

/-- An encoded instruction agrees with a row's match on the row's mask; a CMD24 row is read in the packing of
20_memory.md R54. -/
def hasRow (c : Code) (nbits mask value : Nat) : Prop :=
  match c with
  | .req w => nbits = 32 ∧ w &&& BitVec.ofNat 32 mask = BitVec.ofNat 32 value
  | .cmd b => nbits = 24 ∧ b.pack24 &&& BitVec.ofNat 24 mask = BitVec.ofNat 24 value

/-- The width, mask and match of each instruction's row in the opcode table. -/
def tableRow : Instr → Nat × Nat × Nat
  | .encodeCommand _ => (32, 0xFFFFFF00, 0x00000000)
  | .decodeReply _ _ _ => (32, 0xFF000000, 0x20000000)
  | .registerIdFor _ _ => (32, 0xFFFF00FE, 0x40000000)
  | .performTransaction _ => (32, 0xFFFFFF00, 0x60000000)
  | .readRaw _ => (32, 0xE70000FF, 0x80000000)
  | .readScale _ => (32, 0xE70000FF, 0xA0000000)
  | .sampleSE0 _ => (24, 0xFFFF00, 0x018000)
  | .sampleSE1 _ => (24, 0xFFFF00, 0x019000)
  | .sampleSE2 _ => (24, 0xFFFF00, 0x01A000)
  | .sampleSE3 _ => (24, 0xFFFF00, 0x01B000)
  | .sampleSE4 _ => (24, 0xFFFF00, 0x01C000)
  | .sampleSE5 _ => (24, 0xFFFF00, 0x01D000)
  | .sampleSE6 _ => (24, 0xFFFF00, 0x01E000)
  | .sampleSE7 _ => (24, 0xFFFF00, 0x01F000)
  | .sampleDIFF0_1 _ => (24, 0xFFFF00, 0x010000)
  | .sampleDIFF1_0 _ => (24, 0xFFFF00, 0x011000)
  | .sampleDIFF2_3 _ => (24, 0xFFFF00, 0x012000)
  | .sampleDIFF3_2 _ => (24, 0xFFFF00, 0x013000)
  | .sampleDIFF4_5 _ => (24, 0xFFFF00, 0x014000)
  | .sampleDIFF5_4 _ => (24, 0xFFFF00, 0x015000)
  | .sampleDIFF6_7 _ => (24, 0xFFFF00, 0x016000)
  | .sampleDIFF7_6 _ => (24, 0xFFFF00, 0x017000)

/-- The encoding of an instruction has the bits its row fixes. -/
def TableRow.Statement (i : Instr) : Prop :=
  hasRow (encode i) (tableRow i).1 (tableRow i).2.1 (tableRow i).2.2

/-- Bit `i` of a request word, field by field (30_encoding.md R84, R86). -/
theorem packReq_getLsbD (op : BitVec 3) (diff hp : Bool) (x y z : Byte) (i : Nat) :
    (packReq op diff hp x y z).getLsbD i =
      if i < 8 then z.getLsbD i
      else if i < 16 then y.getLsbD (i - 8)
      else if i < 24 then x.getLsbD (i - 16)
      else if i < 27 then false
      else if i = 27 then hp
      else if i = 28 then diff
      else op.getLsbD (i - 29) := by
  simp only [packReq, BitVec.getLsbD_append, BitVec.getLsbD_ofBool]
  split_ifs <;> first | omega | simp_all

/-- The reserved bits of a request word stay clear where the operand bytes' reserved bits are clear. -/
theorem packReq_masked {op : BitVec 3} {diff hp : Bool} {x y z : Byte} {mask value : ReqWord}
    (h : ∀ i, i < 32 → ((packReq op diff hp x y z).getLsbD i && mask.getLsbD i) = value.getLsbD i) :
    packReq op diff hp x y z &&& mask = value := by
  apply BitVec.eq_of_getLsbD_eq
  intro i hi
  simpa using h i hi

/-- A command's packed bits on the mask of the CMD24 rows: the filler byte is free (30_encoding.md R72). -/
theorem pack24_masked (b0 b1 f : Byte) :
    (Bytes3.mk b0 b1 f).pack24 &&& 0xFFFF00 = (Bytes3.mk b0 b1 0).pack24 := by
  apply BitVec.eq_of_getLsbD_eq
  intro i hi
  simp only [Bytes3.pack24, BitVec.getLsbD_and, BitVec.getLsbD_append]
  interval_cases i <;> simp

/-- A wire command has its CMD24 row. -/
theorem hasRow_cmd {b1 : Byte} (f : Byte) {v : Nat}
    (h : (Bytes3.mk Config.startByte b1 0).pack24 = BitVec.ofNat 24 v) :
    hasRow (.cmd ⟨Config.startByte, b1, f⟩) 24 0xFFFF00 v :=
  ⟨rfl, (pack24_masked _ _ f).trans h⟩

theorem TableRow.encodeCommand (rid : Byte) : TableRow.Statement (.encodeCommand rid) := by
  refine ⟨rfl, packReq_masked fun i hi => ?_⟩
  rw [packReq_getLsbD]
  interval_cases i <;> simp [tableRow]

theorem TableRow.decodeReply (r0 r1 r2 : Byte) : TableRow.Statement (.decodeReply r0 r1 r2) := by
  refine ⟨rfl, packReq_masked fun i hi => ?_⟩
  rw [packReq_getLsbD]
  interval_cases i <;> simp [tableRow]

theorem TableRow.registerIdFor (line : Byte) (se : Bool) : TableRow.Statement (.registerIdFor line se) := by
  refine ⟨rfl, packReq_masked fun i hi => ?_⟩
  rw [packReq_getLsbD]
  interval_cases i <;> cases se <;> simp [tableRow]

theorem TableRow.performTransaction (rid : Byte) : TableRow.Statement (.performTransaction rid) := by
  refine ⟨rfl, packReq_masked fun i hi => ?_⟩
  rw [packReq_getLsbD]
  interval_cases i <;> simp [tableRow]

theorem TableRow.readRaw (d : Desc) : TableRow.Statement (.readRaw d) := by
  obtain ⟨diff, p, pair⟩ := d
  cases pair <;> refine ⟨rfl, packReq_masked fun i hi => ?_⟩ <;> rw [packReq_getLsbD] <;>
    interval_cases i <;> simp [tableRow]

theorem TableRow.readScale (d : Desc) : TableRow.Statement (.readScale d) := by
  obtain ⟨diff, p, pair⟩ := d
  cases pair <;> refine ⟨rfl, packReq_masked fun i hi => ?_⟩ <;> rw [packReq_getLsbD] <;>
    interval_cases i <;> simp [tableRow]

theorem TableRow.sampleSE0 (filler : Byte) : TableRow.Statement (.sampleSE0 filler) :=
  hasRow_cmd (v := 0x018000) filler (by decide)
theorem TableRow.sampleSE1 (filler : Byte) : TableRow.Statement (.sampleSE1 filler) :=
  hasRow_cmd (v := 0x019000) filler (by decide)
theorem TableRow.sampleSE2 (filler : Byte) : TableRow.Statement (.sampleSE2 filler) :=
  hasRow_cmd (v := 0x01A000) filler (by decide)
theorem TableRow.sampleSE3 (filler : Byte) : TableRow.Statement (.sampleSE3 filler) :=
  hasRow_cmd (v := 0x01B000) filler (by decide)
theorem TableRow.sampleSE4 (filler : Byte) : TableRow.Statement (.sampleSE4 filler) :=
  hasRow_cmd (v := 0x01C000) filler (by decide)
theorem TableRow.sampleSE5 (filler : Byte) : TableRow.Statement (.sampleSE5 filler) :=
  hasRow_cmd (v := 0x01D000) filler (by decide)
theorem TableRow.sampleSE6 (filler : Byte) : TableRow.Statement (.sampleSE6 filler) :=
  hasRow_cmd (v := 0x01E000) filler (by decide)
theorem TableRow.sampleSE7 (filler : Byte) : TableRow.Statement (.sampleSE7 filler) :=
  hasRow_cmd (v := 0x01F000) filler (by decide)
theorem TableRow.sampleDIFF0_1 (filler : Byte) : TableRow.Statement (.sampleDIFF0_1 filler) :=
  hasRow_cmd (v := 0x010000) filler (by decide)
theorem TableRow.sampleDIFF1_0 (filler : Byte) : TableRow.Statement (.sampleDIFF1_0 filler) :=
  hasRow_cmd (v := 0x011000) filler (by decide)
theorem TableRow.sampleDIFF2_3 (filler : Byte) : TableRow.Statement (.sampleDIFF2_3 filler) :=
  hasRow_cmd (v := 0x012000) filler (by decide)
theorem TableRow.sampleDIFF3_2 (filler : Byte) : TableRow.Statement (.sampleDIFF3_2 filler) :=
  hasRow_cmd (v := 0x013000) filler (by decide)
theorem TableRow.sampleDIFF4_5 (filler : Byte) : TableRow.Statement (.sampleDIFF4_5 filler) :=
  hasRow_cmd (v := 0x014000) filler (by decide)
theorem TableRow.sampleDIFF5_4 (filler : Byte) : TableRow.Statement (.sampleDIFF5_4 filler) :=
  hasRow_cmd (v := 0x015000) filler (by decide)
theorem TableRow.sampleDIFF6_7 (filler : Byte) : TableRow.Statement (.sampleDIFF6_7 filler) :=
  hasRow_cmd (v := 0x016000) filler (by decide)
theorem TableRow.sampleDIFF7_6 (filler : Byte) : TableRow.Statement (.sampleDIFF7_6 filler) :=
  hasRow_cmd (v := 0x017000) filler (by decide)

end Sys2Proof.Laws
end

