-- ==== Sys2Proof/Laws/Decode.lean ====
section
/-! SUPPORT. The fields of a packed request word, one lemma each. -/

namespace Sys2Proof

open Sys2Proof.Laws (packReq_getLsbD)

variable (op : BitVec 3) (diff hp : Bool) (x y z : Byte)

@[simp] theorem packReq_op : (packReq op diff hp x y z).op = op := by
  apply BitVec.eq_of_getLsbD_eq
  intro i hi
  simp only [ReqWord.op, BitVec.getLsbD_extractLsb', packReq_getLsbD]
  interval_cases i <;> simp

@[simp] theorem packReq_byte2 : (packReq op diff hp x y z).byte2 = x := by
  apply BitVec.eq_of_getLsbD_eq
  intro i hi
  simp only [ReqWord.byte2, BitVec.getLsbD_extractLsb', packReq_getLsbD]
  interval_cases i <;> simp

@[simp] theorem packReq_byte1 : (packReq op diff hp x y z).byte1 = y := by
  apply BitVec.eq_of_getLsbD_eq
  intro i hi
  simp only [ReqWord.byte1, BitVec.getLsbD_extractLsb', packReq_getLsbD]
  interval_cases i <;> simp

@[simp] theorem packReq_byte0 : (packReq op diff hp x y z).byte0 = z := by
  apply BitVec.eq_of_getLsbD_eq
  intro i hi
  simp only [ReqWord.byte0, BitVec.getLsbD_extractLsb', packReq_getLsbD]
  interval_cases i <;> simp

@[simp] theorem packReq_diffBit : (packReq op diff hp x y z).diffBit = diff := by
  rw [ReqWord.diffBit, packReq_getLsbD]; simp

@[simp] theorem packReq_hpBit : (packReq op diff hp x y z).hpBit = hp := by
  rw [ReqWord.hpBit, packReq_getLsbD]; simp

@[simp] theorem packReq_seBit : (packReq op diff hp x y z).seBit = z.getLsbD 0 := by
  rw [ReqWord.seBit, packReq_getLsbD]; simp

/-- A word is the packing of its fields where bits 26:24 are zero. -/
theorem packReq_fields {w : ReqWord} (h : w.extractLsb' 24 3 = 0) :
    packReq w.op w.diffBit w.hpBit w.byte2 w.byte1 w.byte0 = w := by
  apply BitVec.eq_of_getLsbD_eq
  intro i hi
  have h24 : ∀ j, j < 3 → w.getLsbD (24 + j) = false := fun j hj => by
    have := congrArg (fun v => BitVec.getLsbD v j) h
    simpa [hj] using this
  rw [packReq_getLsbD]
  have a0 := h24 0 (by omega)
  have a1 := h24 1 (by omega)
  have a2 := h24 2 (by omega)
  interval_cases i <;>
    simp_all [ReqWord.op, ReqWord.byte2, ReqWord.byte1, ReqWord.byte0, ReqWord.diffBit, ReqWord.hpBit]

end Sys2Proof
end

