-- ==== Sys2Proof/Laws/Memory.lean ====
section
/-! SUPPORT. The laws of sorted association lists and of the buffers: a read after a write, what a write leaves alone, and
that every operation keeps the canonical form. -/

namespace Sys2Proof.Machine

variable {α : Type}

/-! ### Association lists -/

@[simp] theorem Assoc.get_nil (a : Nat) : Assoc.get ([] : List (Nat × α)) a = none := rfl

@[simp] theorem Assoc.get_put_self (l : List (Nat × α)) (a : Nat) (x : α) : Assoc.get (Assoc.put l a x) a = some x := by
  induction l with
  | nil => simp [Assoc.put, Assoc.get]
  | cons p l ih =>
    obtain ⟨k, v⟩ := p
    simp only [Assoc.put]
    split
    · simp [Assoc.get]
    · split
      · simp [Assoc.get]
      · simp [Assoc.get, *]

theorem Assoc.get_put_of_ne (l : List (Nat × α)) {a b : Nat} (h : b ≠ a) (x : α) :
    Assoc.get (Assoc.put l a x) b = Assoc.get l b := by
  induction l with
  | nil => simp [Assoc.put, Assoc.get, Ne.symm h]
  | cons p l ih =>
    obtain ⟨k, v⟩ := p
    simp only [Assoc.put]
    split
    · simp [Assoc.get, Ne.symm h]
    · split
      · subst k; simp [Assoc.get, Ne.symm h]
      · simp [Assoc.get, ih]

@[simp] theorem Assoc.get_erase_self (l : List (Nat × α)) (a : Nat) : Assoc.get (Assoc.erase l a) a = none := by
  induction l with
  | nil => rfl
  | cons p l ih =>
    obtain ⟨k, v⟩ := p
    simp only [Assoc.erase]
    split
    · exact ih
    · simp [Assoc.get, *]

theorem Assoc.get_erase_of_ne (l : List (Nat × α)) {a b : Nat} (h : b ≠ a) :
    Assoc.get (Assoc.erase l a) b = Assoc.get l b := by
  induction l with
  | nil => rfl
  | cons p l ih =>
    obtain ⟨k, v⟩ := p
    simp only [Assoc.erase]
    split
    · subst k; simp [Assoc.get, ih, Ne.symm h]
    · simp [Assoc.get, ih]

/-- A found entry is listed. -/
theorem Assoc.mem_of_get {l : List (Nat × α)} {a : Nat} {x : α} (h : Assoc.get l a = some x) : (a, x) ∈ l := by
  induction l with
  | nil => simp at h
  | cons p l ih =>
    obtain ⟨k, v⟩ := p
    simp only [Assoc.get] at h
    split at h
    · simp_all
    · exact List.mem_cons_of_mem _ (ih h)

/-- Every entry of a written list is the one written or one that was there. -/
theorem Assoc.mem_put {l : List (Nat × α)} {a : Nat} {x : α} {p : Nat × α} (h : p ∈ Assoc.put l a x) :
    p = (a, x) ∨ p ∈ l := by
  induction l with
  | nil => simpa [Assoc.put] using h
  | cons q l ih =>
    obtain ⟨k, v⟩ := q
    simp only [Assoc.put] at h
    split at h
    · simpa using h
    · split at h
      · rcases List.mem_cons.1 h with h | h <;> simp [h]
      · rcases List.mem_cons.1 h with h | h
        · simp [h]
        · rcases ih h with h | h <;> simp [h]

/-- Every entry left after a removal was there. -/
theorem Assoc.mem_erase {l : List (Nat × α)} {a : Nat} {p : Nat × α} (h : p ∈ Assoc.erase l a) : p ∈ l := by
  induction l with
  | nil => simp [Assoc.erase] at h
  | cons q l ih =>
    obtain ⟨k, v⟩ := q
    simp only [Assoc.erase] at h
    split at h
    · exact List.mem_cons_of_mem _ (ih h)
    · rcases List.mem_cons.1 h with h | h
      · simp [h]
      · exact List.mem_cons_of_mem _ (ih h)

/-- A bound may be lowered. -/
theorem Assoc.risingFrom_weaken {l : List (Nat × α)} {b b' : Nat} (hb : b' ≤ b)
    (h : Assoc.risingFrom (some b) l = true) : Assoc.risingFrom (some b') l = true := by
  cases l with
  | nil => rfl
  | cons p l =>
    simp only [Assoc.risingFrom, Bool.and_eq_true, decide_eq_true_eq] at h ⊢
    exact ⟨by omega, h.2⟩

theorem Assoc.risingFrom_put_some {l : List (Nat × α)} {b a : Nat} (hb : b < a) (x : α)
    (h : Assoc.risingFrom (some b) l = true) : Assoc.risingFrom (some b) (Assoc.put l a x) = true := by
  induction l generalizing b with
  | nil => simpa [Assoc.put, Assoc.risingFrom] using hb
  | cons p l ih =>
    obtain ⟨k, v⟩ := p
    simp only [Assoc.risingFrom, Bool.and_eq_true, decide_eq_true_eq] at h
    simp only [Assoc.put]
    split
    · simp [Assoc.risingFrom, *]
    · split
      · subst k; simp [Assoc.risingFrom, h]
      · simp only [Assoc.risingFrom, Bool.and_eq_true, decide_eq_true_eq]
        exact ⟨h.1, ih (by omega) h.2⟩

/-- Writing keeps the keys rising. -/
theorem Assoc.risingFrom_put {l : List (Nat × α)} (a : Nat) (x : α) (h : Assoc.risingFrom none l = true) :
    Assoc.risingFrom none (Assoc.put l a x) = true := by
  cases l with
  | nil => rfl
  | cons p l =>
    obtain ⟨k, v⟩ := p
    simp only [Assoc.risingFrom] at h
    simp only [Assoc.put]
    split
    · simp [Assoc.risingFrom, *]
    · split
      · subst k; simpa [Assoc.risingFrom] using h
      · exact Assoc.risingFrom_put_some (by omega) x h

theorem Assoc.risingFrom_erase_some {l : List (Nat × α)} {b : Nat} (a : Nat)
    (h : Assoc.risingFrom (some b) l = true) : Assoc.risingFrom (some b) (Assoc.erase l a) = true := by
  induction l generalizing b with
  | nil => rfl
  | cons p l ih =>
    obtain ⟨k, v⟩ := p
    simp only [Assoc.risingFrom, Bool.and_eq_true, decide_eq_true_eq] at h
    simp only [Assoc.erase]
    split
    · exact ih (Assoc.risingFrom_weaken (by omega) h.2)
    · simp only [Assoc.risingFrom, Bool.and_eq_true, decide_eq_true_eq]
      exact ⟨h.1, ih h.2⟩

/-- Removing keeps the keys rising. -/
theorem Assoc.risingFrom_erase {l : List (Nat × α)} (a : Nat) (h : Assoc.risingFrom none l = true) :
    Assoc.risingFrom none (Assoc.erase l a) = true := by
  induction l with
  | nil => rfl
  | cons p l ih =>
    obtain ⟨k, v⟩ := p
    simp only [Assoc.risingFrom] at h
    simp only [Assoc.erase]
    split
    · apply ih
      cases l with
      | nil => rfl
      | cons q l =>
        simp only [Assoc.risingFrom, Bool.and_eq_true] at h ⊢
        exact h.2
    · exact Assoc.risingFrom_erase_some a h

/-! ### Buffers -/

@[simp] theorem readByte_writeByte_self (b : BufferId) (m : Memory) (i : Fin 3) (v : Byte) :
    readByte b (writeByte m i v) i = .ok v := by
  simp [readByte, writeByte]

theorem readByte_writeByte_of_ne (b : BufferId) (m : Memory) {i j : Fin 3} (h : j ≠ i) (v : Byte) :
    readByte b (writeByte m i v) j = readByte b m j := by
  simp [readByte, writeByte, Assoc.get_put_of_ne m (fun e => h (Fin.ext e))]

/-- Reading a whole frame after writing it gives it back, whatever the buffer held. -/
@[simp] theorem memRead3_memWrite3 (b : BufferId) (m : Memory) (v : Bytes3) :
    memRead3 b (memWrite3 m v) = .ok v := by
  have h1 : readByte b (memWrite3 m v) 0 = .ok v.b0 := by
    simp [memWrite3, readByte_writeByte_of_ne b _ (show (0 : Fin 3) ≠ 2 by decide),
      readByte_writeByte_of_ne b _ (show (0 : Fin 3) ≠ 1 by decide)]
  have h2 : readByte b (memWrite3 m v) 1 = .ok v.b1 := by
    simp [memWrite3, readByte_writeByte_of_ne b _ (show (1 : Fin 3) ≠ 2 by decide)]
  have h3 : readByte b (memWrite3 m v) 2 = .ok v.b2 := by simp [memWrite3]
  simp [memRead3, h1, h2, h3]

@[simp] theorem Memory.wf_nil : Memory.wf [] = true := rfl

/-- Writing a byte keeps the canonical form. -/
theorem Memory.wf_writeByte {m : Memory} (h : Memory.wf m = true) (i : Fin 3) (v : Byte) :
    Memory.wf (writeByte m i v) = true := by
  simp only [Memory.wf, Bool.and_eq_true, List.all_eq_true, decide_eq_true_eq] at h ⊢
  refine ⟨Assoc.risingFrom_put _ _ h.1, fun p hp => ?_⟩
  rcases Assoc.mem_put hp with rfl | hp
  · exact i.isLt
  · exact h.2 p hp

/-- Writing a frame keeps the canonical form. -/
theorem Memory.wf_memWrite3 {m : Memory} (h : Memory.wf m = true) (v : Bytes3) :
    Memory.wf (memWrite3 m v) = true :=
  Memory.wf_writeByte (Memory.wf_writeByte (Memory.wf_writeByte h 0 _) 1 _) 2 _

end Sys2Proof.Machine
end

