-- ==== Sys2Proof/Laws/State.lean ====
section
/-! SUPPORT. One lemma per field per named update of the state, so that no proof unfolds a record update; and the phase a
caller has after one. -/

namespace Sys2Proof.Machine

/-! ### Setting a phase -/

@[simp] theorem State.setPhase_life (s : State) (c : CallerId) (p : Phase) : (s.setPhase c p).life = s.life := by
  cases p <;> rfl
@[simp] theorem State.setPhase_lock (s : State) (c : CallerId) (p : Phase) : (s.setPhase c p).lock = s.lock := by
  cases p <;> rfl
@[simp] theorem State.setPhase_tx (s : State) (c : CallerId) (p : Phase) : (s.setPhase c p).tx = s.tx := by
  cases p <;> rfl
@[simp] theorem State.setPhase_rx (s : State) (c : CallerId) (p : Phase) : (s.setPhase c p).rx = s.rx := by
  cases p <;> rfl
@[simp] theorem State.setPhase_handles (s : State) (c : CallerId) (p : Phase) : (s.setPhase c p).handles = s.handles := by
  cases p <;> rfl
@[simp] theorem State.setPhase_attachError (s : State) (c : CallerId) (p : Phase) : (s.setPhase c p).attachError = s.attachError := by
  cases p <;> rfl
@[simp] theorem State.setPhase_params (s : State) (c : CallerId) (p : Phase) : (s.setPhase c p).params = s.params := by
  cases p <;> rfl
@[simp] theorem State.setPhase_xfer (s : State) (c : CallerId) (p : Phase) : (s.setPhase c p).xfer = s.xfer := by
  cases p <;> rfl
@[simp] theorem State.setPhase_who (s : State) (c : CallerId) (p : Phase) : (s.setPhase c p).who = s.who := by
  cases p <;> rfl
@[simp] theorem State.setPhase_agenda (s : State) (c : CallerId) (p : Phase) : (s.setPhase c p).agenda = s.agenda := by
  cases p <;> rfl
@[simp] theorem State.setPhase_xferAnswers (s : State) (c : CallerId) (p : Phase) : (s.setPhase c p).xferAnswers = s.xferAnswers := by
  cases p <;> rfl
@[simp] theorem State.setPhase_mvAnswers (s : State) (c : CallerId) (p : Phase) : (s.setPhase c p).mvAnswers = s.mvAnswers := by
  cases p <;> rfl
@[simp] theorem State.setPhase_enableAnswers (s : State) (c : CallerId) (p : Phase) : (s.setPhase c p).enableAnswers = s.enableAnswers := by
  cases p <;> rfl
@[simp] theorem State.setPhase_draws (s : State) (c : CallerId) (p : Phase) : (s.setPhase c p).draws = s.draws := by
  cases p <;> rfl
@[simp] theorem State.setPhase_nCallers (s : State) (c : CallerId) (p : Phase) :
    (s.setPhase c p).nCallers = s.nCallers := by
  cases p <;> rfl

@[simp] theorem State.phaseOf_setPhase_self (s : State) (c : CallerId) (p : Phase) : (s.setPhase c p).phaseOf c = p := by
  cases p <;> simp [State.setPhase, State.phaseOf]

theorem State.phaseOf_setPhase_of_ne (s : State) {c c' : CallerId} (h : c' ≠ c) (p : Phase) :
    (s.setPhase c p).phaseOf c' = s.phaseOf c' := by
  cases p <;> simp [State.setPhase, State.phaseOf, Assoc.get_put_of_ne _ h, Assoc.get_erase_of_ne _ h]

/-- Phases depend on the list of phases alone. -/
theorem State.phaseOf_congr {s t : State} (h : t.phases = s.phases) (c : CallerId) : t.phaseOf c = s.phaseOf c := by
  simp [State.phaseOf, h]

/-- Setting a phase keeps the canonical form. -/
theorem PhaseMap.wf_setPhase {s : State} (h : PhaseMap.wf s.nCallers s.phases = true) {c : CallerId}
    (hc : c < s.nCallers) (p : Phase) : PhaseMap.wf s.nCallers (s.setPhase c p).phases = true := by
  simp only [PhaseMap.wf, Bool.and_eq_true, List.all_eq_true, decide_eq_true_eq, Bool.not_eq_true'] at h ⊢
  cases p <;>
    first
    | exact ⟨Assoc.risingFrom_erase _ h.1, fun q hq => h.2 q (Assoc.mem_erase hq)⟩
    | exact ⟨Assoc.risingFrom_put _ _ h.1, fun q hq => by
        rcases Assoc.mem_put hq with rfl | hq
        · exact ⟨hc, rfl⟩
        · exact h.2 q hq⟩

/-- A caller that is not idle exists, in the canonical form. -/
theorem PhaseMap.lt_of_not_idle {s : State} (h : PhaseMap.wf s.nCallers s.phases = true) {c : CallerId}
    (hc : s.phaseOf c ≠ .idle) : c < s.nCallers := by
  simp only [PhaseMap.wf, Bool.and_eq_true, List.all_eq_true, decide_eq_true_eq, Bool.not_eq_true'] at h
  cases hg : Assoc.get s.phases c with
  | none => simp [State.phaseOf, hg] at hc
  | some p => exact (h.2 _ (Assoc.mem_of_get hg)).1

/-! ### The draws -/

@[simp] theorem State.drawXfer_life (s : State) : s.drawXfer.2.life = s.life := by
  unfold State.drawXfer; split <;> rfl
@[simp] theorem State.drawXfer_lock (s : State) : s.drawXfer.2.lock = s.lock := by
  unfold State.drawXfer; split <;> rfl
@[simp] theorem State.drawXfer_tx (s : State) : s.drawXfer.2.tx = s.tx := by
  unfold State.drawXfer; split <;> rfl
@[simp] theorem State.drawXfer_rx (s : State) : s.drawXfer.2.rx = s.rx := by
  unfold State.drawXfer; split <;> rfl
@[simp] theorem State.drawXfer_phases (s : State) : s.drawXfer.2.phases = s.phases := by
  unfold State.drawXfer; split <;> rfl
@[simp] theorem State.drawXfer_handles (s : State) : s.drawXfer.2.handles = s.handles := by
  unfold State.drawXfer; split <;> rfl
@[simp] theorem State.drawXfer_attachError (s : State) : s.drawXfer.2.attachError = s.attachError := by
  unfold State.drawXfer; split <;> rfl
@[simp] theorem State.drawXfer_params (s : State) : s.drawXfer.2.params = s.params := by
  unfold State.drawXfer; split <;> rfl
@[simp] theorem State.drawXfer_xfer (s : State) : s.drawXfer.2.xfer = s.xfer := by
  unfold State.drawXfer; split <;> rfl
@[simp] theorem State.drawXfer_who (s : State) : s.drawXfer.2.who = s.who := by
  unfold State.drawXfer; split <;> rfl
@[simp] theorem State.drawXfer_agenda (s : State) : s.drawXfer.2.agenda = s.agenda := by
  unfold State.drawXfer; split <;> rfl
@[simp] theorem State.drawXfer_mvAnswers (s : State) : s.drawXfer.2.mvAnswers = s.mvAnswers := by
  unfold State.drawXfer; split <;> rfl
@[simp] theorem State.drawXfer_enableAnswers (s : State) : s.drawXfer.2.enableAnswers = s.enableAnswers := by
  unfold State.drawXfer; split <;> rfl
@[simp] theorem State.drawXfer_phaseOf (s : State) (c : CallerId) : s.drawXfer.2.phaseOf c = s.phaseOf c := by
  unfold State.drawXfer; split <;> rfl
@[simp] theorem State.drawXfer_nCallers (s : State) : s.drawXfer.2.nCallers = s.nCallers := by
  unfold State.drawXfer; split <;> rfl

@[simp] theorem State.drawMv_life (s : State) : s.drawMv.2.life = s.life := by
  unfold State.drawMv; split <;> rfl
@[simp] theorem State.drawMv_lock (s : State) : s.drawMv.2.lock = s.lock := by
  unfold State.drawMv; split <;> rfl
@[simp] theorem State.drawMv_tx (s : State) : s.drawMv.2.tx = s.tx := by
  unfold State.drawMv; split <;> rfl
@[simp] theorem State.drawMv_rx (s : State) : s.drawMv.2.rx = s.rx := by
  unfold State.drawMv; split <;> rfl
@[simp] theorem State.drawMv_phases (s : State) : s.drawMv.2.phases = s.phases := by
  unfold State.drawMv; split <;> rfl
@[simp] theorem State.drawMv_handles (s : State) : s.drawMv.2.handles = s.handles := by
  unfold State.drawMv; split <;> rfl
@[simp] theorem State.drawMv_attachError (s : State) : s.drawMv.2.attachError = s.attachError := by
  unfold State.drawMv; split <;> rfl
@[simp] theorem State.drawMv_params (s : State) : s.drawMv.2.params = s.params := by
  unfold State.drawMv; split <;> rfl
@[simp] theorem State.drawMv_xfer (s : State) : s.drawMv.2.xfer = s.xfer := by
  unfold State.drawMv; split <;> rfl
@[simp] theorem State.drawMv_who (s : State) : s.drawMv.2.who = s.who := by
  unfold State.drawMv; split <;> rfl
@[simp] theorem State.drawMv_agenda (s : State) : s.drawMv.2.agenda = s.agenda := by
  unfold State.drawMv; split <;> rfl
@[simp] theorem State.drawMv_xferAnswers (s : State) : s.drawMv.2.xferAnswers = s.xferAnswers := by
  unfold State.drawMv; split <;> rfl
@[simp] theorem State.drawMv_enableAnswers (s : State) : s.drawMv.2.enableAnswers = s.enableAnswers := by
  unfold State.drawMv; split <;> rfl
@[simp] theorem State.drawMv_phaseOf (s : State) (c : CallerId) : s.drawMv.2.phaseOf c = s.phaseOf c := by
  unfold State.drawMv; split <;> rfl
@[simp] theorem State.drawMv_nCallers (s : State) : s.drawMv.2.nCallers = s.nCallers := by
  unfold State.drawMv; split <;> rfl

@[simp] theorem State.drawEnable_life (s : State) : s.drawEnable.2.life = s.life := by
  unfold State.drawEnable; split <;> rfl
@[simp] theorem State.drawEnable_lock (s : State) : s.drawEnable.2.lock = s.lock := by
  unfold State.drawEnable; split <;> rfl
@[simp] theorem State.drawEnable_tx (s : State) : s.drawEnable.2.tx = s.tx := by
  unfold State.drawEnable; split <;> rfl
@[simp] theorem State.drawEnable_rx (s : State) : s.drawEnable.2.rx = s.rx := by
  unfold State.drawEnable; split <;> rfl
@[simp] theorem State.drawEnable_phases (s : State) : s.drawEnable.2.phases = s.phases := by
  unfold State.drawEnable; split <;> rfl
@[simp] theorem State.drawEnable_handles (s : State) : s.drawEnable.2.handles = s.handles := by
  unfold State.drawEnable; split <;> rfl
@[simp] theorem State.drawEnable_attachError (s : State) : s.drawEnable.2.attachError = s.attachError := by
  unfold State.drawEnable; split <;> rfl
@[simp] theorem State.drawEnable_params (s : State) : s.drawEnable.2.params = s.params := by
  unfold State.drawEnable; split <;> rfl
@[simp] theorem State.drawEnable_xfer (s : State) : s.drawEnable.2.xfer = s.xfer := by
  unfold State.drawEnable; split <;> rfl
@[simp] theorem State.drawEnable_who (s : State) : s.drawEnable.2.who = s.who := by
  unfold State.drawEnable; split <;> rfl
@[simp] theorem State.drawEnable_agenda (s : State) : s.drawEnable.2.agenda = s.agenda := by
  unfold State.drawEnable; split <;> rfl
@[simp] theorem State.drawEnable_xferAnswers (s : State) : s.drawEnable.2.xferAnswers = s.xferAnswers := by
  unfold State.drawEnable; split <;> rfl
@[simp] theorem State.drawEnable_mvAnswers (s : State) : s.drawEnable.2.mvAnswers = s.mvAnswers := by
  unfold State.drawEnable; split <;> rfl
@[simp] theorem State.drawEnable_phaseOf (s : State) (c : CallerId) : s.drawEnable.2.phaseOf c = s.phaseOf c := by
  unfold State.drawEnable; split <;> rfl
@[simp] theorem State.drawEnable_nCallers (s : State) : s.drawEnable.2.nCallers = s.nCallers := by
  unfold State.drawEnable; split <;> rfl

@[simp] theorem State.drawEvent_life (s : State) : s.drawEvent.2.life = s.life := by
  unfold State.drawEvent; split <;> rfl
@[simp] theorem State.drawEvent_lock (s : State) : s.drawEvent.2.lock = s.lock := by
  unfold State.drawEvent; split <;> rfl
@[simp] theorem State.drawEvent_tx (s : State) : s.drawEvent.2.tx = s.tx := by
  unfold State.drawEvent; split <;> rfl
@[simp] theorem State.drawEvent_rx (s : State) : s.drawEvent.2.rx = s.rx := by
  unfold State.drawEvent; split <;> rfl
@[simp] theorem State.drawEvent_phases (s : State) : s.drawEvent.2.phases = s.phases := by
  unfold State.drawEvent; split <;> rfl
@[simp] theorem State.drawEvent_handles (s : State) : s.drawEvent.2.handles = s.handles := by
  unfold State.drawEvent; split <;> rfl
@[simp] theorem State.drawEvent_attachError (s : State) : s.drawEvent.2.attachError = s.attachError := by
  unfold State.drawEvent; split <;> rfl
@[simp] theorem State.drawEvent_params (s : State) : s.drawEvent.2.params = s.params := by
  unfold State.drawEvent; split <;> rfl
@[simp] theorem State.drawEvent_xfer (s : State) : s.drawEvent.2.xfer = s.xfer := by
  unfold State.drawEvent; split <;> rfl
@[simp] theorem State.drawEvent_who (s : State) : s.drawEvent.2.who = s.who := by
  unfold State.drawEvent; split <;> rfl
@[simp] theorem State.drawEvent_xferAnswers (s : State) : s.drawEvent.2.xferAnswers = s.xferAnswers := by
  unfold State.drawEvent; split <;> rfl
@[simp] theorem State.drawEvent_mvAnswers (s : State) : s.drawEvent.2.mvAnswers = s.mvAnswers := by
  unfold State.drawEvent; split <;> rfl
@[simp] theorem State.drawEvent_enableAnswers (s : State) : s.drawEvent.2.enableAnswers = s.enableAnswers := by
  unfold State.drawEvent; split <;> rfl
@[simp] theorem State.drawEvent_phaseOf (s : State) (c : CallerId) : s.drawEvent.2.phaseOf c = s.phaseOf c := by
  unfold State.drawEvent; split <;> rfl
@[simp] theorem State.drawEvent_nCallers (s : State) : s.drawEvent.2.nCallers = s.nCallers := by
  unfold State.drawEvent; split <;> rfl

/-! ### Responding -/

@[simp] theorem State.respond_phaseOf_self (s : State) (r : Response) : (s.respond r).phaseOf s.who = .done r := by
  simp [State.respond]

theorem State.respond_phaseOf_of_ne (s : State) (r : Response) {c : CallerId} (h : c ≠ s.who) :
    (s.respond r).phaseOf c = s.phaseOf c := by
  simp [State.respond, State.phaseOf_setPhase_of_ne _ h]

@[simp] theorem State.respond_life (s : State) (r : Response) : (s.respond r).life = s.life := by
  simp [State.respond]
@[simp] theorem State.respond_lock (s : State) (r : Response) : (s.respond r).lock = s.lock := by
  simp [State.respond]
@[simp] theorem State.respond_tx (s : State) (r : Response) : (s.respond r).tx = s.tx := by
  simp [State.respond]
@[simp] theorem State.respond_rx (s : State) (r : Response) : (s.respond r).rx = s.rx := by
  simp [State.respond]
@[simp] theorem State.respond_handles (s : State) (r : Response) : (s.respond r).handles = s.handles := by
  simp [State.respond]
@[simp] theorem State.respond_attachError (s : State) (r : Response) : (s.respond r).attachError = s.attachError := by
  simp [State.respond]
@[simp] theorem State.respond_params (s : State) (r : Response) : (s.respond r).params = s.params := by
  simp [State.respond]
@[simp] theorem State.respond_xfer (s : State) (r : Response) : (s.respond r).xfer = s.xfer := by
  simp [State.respond]
@[simp] theorem State.respond_who (s : State) (r : Response) : (s.respond r).who = s.who := by
  simp [State.respond]
@[simp] theorem State.respond_agenda (s : State) (r : Response) : (s.respond r).agenda = s.agenda := by
  simp [State.respond]
@[simp] theorem State.respond_xferAnswers (s : State) (r : Response) : (s.respond r).xferAnswers = s.xferAnswers := by
  simp [State.respond]
@[simp] theorem State.respond_mvAnswers (s : State) (r : Response) : (s.respond r).mvAnswers = s.mvAnswers := by
  simp [State.respond]
@[simp] theorem State.respond_enableAnswers (s : State) (r : Response) : (s.respond r).enableAnswers = s.enableAnswers := by
  simp [State.respond]
@[simp] theorem State.respond_draws (s : State) (r : Response) : (s.respond r).draws = s.draws := by
  simp [State.respond]

end Sys2Proof.Machine
end

