-- ==== Sys2Proof/Laws/Invariant.lean ====
section
/-! SUPPORT. What the invariant reads of a state, and what setting a phase does to it. -/

namespace Sys2Proof.Machine

/-- The invariant carries over to a state that agrees on the fields it reads: all but the caller stepping and the
environment's lists. -/
theorem Inv.congr {s t : State} (h : Inv s) (htx : t.tx = s.tx) (hrx : t.rx = s.rx) (hparams : t.params = s.params)
    (hphases : t.phases = s.phases) (hlife : t.life = s.life) (hlock : t.lock = s.lock) (hhandles : t.handles = s.handles)
    (hxfer : t.xfer = s.xfer) (herror : t.attachError = s.attachError) : Inv t := by
  have hp : ∀ c, t.phaseOf c = s.phaseOf c := State.phaseOf_congr hphases
  have hn : t.nCallers = s.nCallers := by simp only [State.nCallers, hparams]
  constructor
  · rw [htx]; exact h.txForm
  · rw [hrx]; exact h.rxForm
  · rw [hn, hphases]; exact h.phasesForm
  · rw [hlife, hlock, htx, hrx, hphases, hhandles, hxfer]; exact h.detachedEmpty
  · rw [hlife, hhandles, herror]; exact h.attachedBound
  · intro c; rw [hlock, hp]; exact h.ownerInXfer c
  · intro c rid; rw [hp, hxfer, htx, hparams]; exact h.wireCommand c rid
  · rw [hlock, hxfer]; exact h.xferNeedsLock
  · rw [htx, hparams]; exact h.txWhole
  · rw [hrx]; exact h.rxWhole
  · intro c r; rw [hp, hparams]; exact h.responsesFit c r
  · rw [herror, hparams]; exact h.attachErrorFits

/-- A caller that exists keeps the invariant when its phase moves between phases other than a transfer. -/
theorem Inv.setPhase {s : State} (h : Inv s) {c : CallerId} {p : Phase} (hc : c < s.nCallers) (hl : s.life = .attached)
    (hs : ∀ rid, s.phaseOf c ≠ .inXfer rid) (hp : ∀ rid, p ≠ .inXfer rid)
    (hr : ∀ r, p = .done r → r.fits s.params = true) : Inv (s.setPhase c p) := by
  have ne : ∀ d, d ≠ c → (s.setPhase c p).phaseOf d = s.phaseOf d := fun d hd => State.phaseOf_setPhase_of_ne _ hd _
  constructor
  · simpa using h.txForm
  · simpa using h.rxForm
  · simpa using PhaseMap.wf_setPhase h.phasesForm hc p
  · simp [hl]
  · simpa using h.attachedBound
  · intro d
    by_cases hd : d = c
    · subst hd
      have := h.ownerInXfer d
      simp only [State.setPhase_lock, State.phaseOf_setPhase_self]
      constructor
      · intro e
        obtain ⟨rid, e⟩ := this.1 e
        exact absurd e (hs rid)
      · rintro ⟨rid, e⟩
        exact absurd e (hp rid)
    · rw [ne d hd]; simpa using h.ownerInXfer d
  · intro d rid
    by_cases hd : d = c
    · subst hd
      rw [State.phaseOf_setPhase_self]
      intro e
      exact absurd e (hp rid)
    · rw [ne d hd]; simpa using h.wireCommand d rid
  · simpa using h.xferNeedsLock
  · simpa using h.txWhole
  · simpa using h.rxWhole
  · intro d r
    by_cases hd : d = c
    · subst hd; simpa using hr r
    · rw [ne d hd]; simpa using h.responsesFit d r
  · simpa using h.attachErrorFits

end Sys2Proof.Machine
end

