-- ==== Sys2Proof/Laws/Ops.lean ====
section
/-! SUPPORT. One lemma per shared operation that says everything it can do; claims cite these instead of unfolding. -/

namespace Sys2Proof.Machine

/-! ### The widths of a draw -/

theorem lowBits_lt (w n : Nat) : lowBits w n < 2 ^ w := Nat.mod_lt _ (Nat.two_pow_pos w)

theorem lowBits_of_lt {w n : Nat} (h : n < 2 ^ w) : lowBits w n = n := Nat.mod_eq_of_lt h

@[simp] theorem xferFits_narrowXfer (p : Params) (a : XferAnswer) : xferFits p (narrowXfer p a) = true := by
  cases a <;> simp [xferFits, narrowXfer, lowBits_lt]

@[simp] theorem mvFits_narrowMv (p : Params) (a : MvAnswer) : mvFits p (narrowMv p a) = true := by
  cases a <;> simp [mvFits, narrowMv, lowBits_lt]

/-- An answer the parameters admit is drawn as it is. -/
theorem narrowXfer_of_fits {p : Params} {a : XferAnswer} (h : xferFits p a = true) : narrowXfer p a = a := by
  cases a with
  | ok reply => rfl
  | err code => simp only [xferFits, decide_eq_true_eq] at h; simp only [narrowXfer, lowBits_of_lt h]

/-- An answer the parameters admit is drawn as it is. -/
theorem narrowMv_of_fits {p : Params} {a : MvAnswer} (h : mvFits p a = true) : narrowMv p a = a := by
  cases a <;> simp only [mvFits, decide_eq_true_eq] at h <;> simp only [narrowMv, lowBits_of_lt h]

/-- A listed answer that the parameters admit is drawn as it is. -/
theorem State.drawXfer_of_fits {s : State} {a : XferAnswer} {rest : List XferAnswer} (h : s.xferAnswers = a :: rest)
    (ha : xferFits s.params a = true) : s.drawXfer = (a, { s with xferAnswers := rest }) := by
  simp only [State.drawXfer, h, narrowXfer_of_fits ha]

/-- A listed answer that the parameters admit is drawn as it is. -/
theorem State.drawMv_of_fits {s : State} {a : MvAnswer} {rest : List MvAnswer} (h : s.mvAnswers = a :: rest)
    (ha : mvFits s.params a = true) : s.drawMv = (a, { s with mvAnswers := rest }) := by
  simp only [State.drawMv, h, narrowMv_of_fits ha]

/-- A listed enable code of `RERR_W` bits is drawn as it is. -/
theorem State.drawEnable_of_lt {s : State} {code : RegulatorCode} {rest : List EnableAnswer}
    (h : s.enableAnswers = .err code :: rest) (hc : code < 2 ^ s.params.rerrWidth) :
    s.drawEnable = (.err code, { s with enableAnswers := rest }) := by
  simp only [State.drawEnable, h, narrowEnable, lowBits_of_lt hc]

/-- Every drawn transport answer has its width. -/
@[simp] theorem State.drawXfer_fits (s : State) : xferFits s.params s.drawXfer.1 = true := by
  unfold State.drawXfer; split <;> simp

/-- Every drawn millivolt answer has its width. -/
@[simp] theorem State.drawMv_fits (s : State) : mvFits s.params s.drawMv.1 = true := by
  unfold State.drawMv; split <;> simp

/-- Every drawn enable code has its width. -/
theorem State.drawEnable_lt {s : State} {code : RegulatorCode} (h : s.drawEnable.1 = .err code) :
    code < 2 ^ s.params.rerrWidth := by
  unfold State.drawEnable at h
  split at h <;> rename_i ha
  · rename_i a rest
    cases a with
    | ok => cases h
    | err c => cases h; exact lowBits_lt _ _
  · dsimp only at h
    generalize Config.freeEnable s.draws = a at h
    cases a with
    | ok => cases h
    | err c => cases h; exact lowBits_lt _ _

/-! ### The issue gate -/

theorem Phase.isIdle_iff {p : Phase} : p.isIdle = true ↔ p = .idle := by cases p <;> simp [Phase.isIdle]

theorem State.canIssue_iff {s : State} {c : CallerId} : s.canIssue c = true ↔ c < s.nCallers ∧ s.phaseOf c = .idle := by
  simp [State.canIssue, Phase.isIdle_iff]

/-- The gate is open for a ready caller. -/
theorem issueGate_of_ready {s : State} (h : Ready s) (body : State → Outcome) : issueGate s body = body s := by
  simp [issueGate, h.1, State.canIssue_iff.2 h.2]

/-- The gate is shut while detached. -/
theorem issueGate_of_detached {s : State} (h : s.life = .detached) (body : State → Outcome) :
    issueGate s body = .refused .notAttached := by
  simp [issueGate, h]

/-- A caller that cannot issue does nothing. -/
theorem issueGate_of_blocked {s : State} (h : s.life = .attached) (hc : s.canIssue s.who = false)
    (body : State → Outcome) : issueGate s body = .next s := by
  simp [issueGate, h, hc]

/-- Everything the gate can do. -/
theorem issueGate_cases (s : State) (body : State → Outcome) :
    (s.life = .detached ∧ issueGate s body = .refused .notAttached) ∨
    (s.life = .attached ∧ s.canIssue s.who = false ∧ issueGate s body = .next s) ∨
    (Ready s ∧ issueGate s body = body s) := by
  cases hl : s.life with
  | detached => exact .inl ⟨rfl, issueGate_of_detached hl body⟩
  | attached =>
    cases hc : s.canIssue s.who with
    | false => exact .inr (.inl ⟨rfl, rfl, issueGate_of_blocked hl hc body⟩)
    | true =>
      have hr : Ready s := ⟨hl, State.canIssue_iff.1 hc⟩
      exact .inr (.inr ⟨hr, issueGate_of_ready hr body⟩)

/-! ### The steps of a transaction -/

/-- The acquire step where it is enabled. -/
theorem acquireLock_of_enabled {s : State} {c : CallerId} {rid : Byte} (hl : s.life = .attached)
    (hp : s.phaseOf c = .waitLock rid) (hk : s.lock = none) :
    acquireLock c s = .next (({ s with
      lock := some c
      tx := memWrite3 s.tx (encodeCommand s.params.fillerByte rid)
      xfer := some (encodeCommand s.params.fillerByte rid) }).setPhase c (.inXfer rid)) := by
  simp [acquireLock, hl, hp, hk]

/-- Everything the acquire step can do. -/
theorem acquireLock_cases (c : CallerId) (s : State) :
    acquireLock c s = .next s ∨
    ∃ rid, s.life = .attached ∧ s.phaseOf c = .waitLock rid ∧ s.lock = none ∧
      acquireLock c s = .next (({ s with
        lock := some c
        tx := memWrite3 s.tx (encodeCommand s.params.fillerByte rid)
        xfer := some (encodeCommand s.params.fillerByte rid) }).setPhase c (.inXfer rid)) := by
  by_cases hl : s.life = .attached
  · by_cases hk : s.lock = none
    · cases hp : s.phaseOf c with
      | waitLock rid => exact .inr ⟨rid, hl, rfl, hk, acquireLock_of_enabled hl hp hk⟩
      | idle => left; simp [acquireLock, hl, hk, hp]
      | inXfer rid => left; simp [acquireLock, hl, hk, hp]
      | done r => left; simp [acquireLock, hl, hk, hp]
    · obtain ⟨d, hd⟩ := Option.ne_none_iff_exists'.1 hk
      left; simp [acquireLock, hl, hd]
  · have hl : s.life = .detached := by cases h : s.life <;> simp_all
    left; simp [acquireLock, hl]

/-- What the reply buffer becomes on a transfer's result (40_codec.md R107). -/
def rxOf (rx : Memory) : XferAnswer → Memory
  | .ok reply => memWrite3 rx reply
  | .err _ => []

theorem rxAfter_rxOf (rx : Memory) (a : XferAnswer) : rxAfter (rxOf rx a) a := by
  cases a with
  | ok reply => simp [rxAfter, rxOf]
  | err code => intro i; simp [rxOf, readByte]

/-- The completion step always gives a next state, with the response of the answer drawn. -/
theorem completeTransfer_eq (s : State) :
    completeTransfer s = .next (({ s.drawXfer.2 with
      rx := rxOf s.rx s.drawXfer.1
      lock := none
      xfer := none }).respond (transactionResponse s.drawXfer.1)) := by
  have hr : s.drawXfer.2.rx = s.rx := by simp
  rw [completeTransfer]
  generalize s.drawXfer = d at hr ⊢
  obtain ⟨a, s'⟩ := d
  dsimp only at hr ⊢
  cases a with
  | ok reply => simp [rxOf, transactionResponse, hr]
  | err code => simp [rxOf, transactionResponse]

/-- A command the decoder reads runs as its exchange. -/
theorem exec_of_decodeCmd {cmd : Bytes3} {i : Instr} (h : decodeCmd cmd = .ok i) (s : State) :
    exec i s = if s.onWire cmd then completeTransfer s else .next s := by
  obtain ⟨b0, b1, b2⟩ := cmd
  simp only [decodeCmd] at h
  split at h
  · cases h
  · rename_i hb
    have hb0 : b0 = Config.startByte := by simpa using hb
    subst hb0
    have hb1 : BitVec.ofNat 8 b1.toNat = b1 := by simp
    split at h <;> first
      | cases h; rename_i hn; rw [hn] at hb1; subst hb1; rfl
      | cases h

/-- The completion step where a transfer is outstanding, whatever its register id. -/
theorem completeExchange_of_outstanding {s : State} {rid : Byte} {cmd : Bytes3} (hp : s.phaseOf s.who = .inXfer rid)
    (hx : s.xfer = some cmd) : completeExchange s = completeTransfer s := by
  simp only [completeExchange, hp, hx]
  split
  · rename_i i hi
    rw [exec_of_decodeCmd hi]
    simp [State.onWire, hp, hx]
  · rfl

/-- Everything the completion step can do. -/
theorem completeExchange_cases (s : State) :
    completeExchange s = .next s ∨
    ∃ rid cmd, s.phaseOf s.who = .inXfer rid ∧ s.xfer = some cmd ∧ completeExchange s = completeTransfer s := by
  cases hp : s.phaseOf s.who with
  | inXfer rid =>
    cases hx : s.xfer with
    | some cmd => exact .inr ⟨rid, cmd, rfl, rfl, completeExchange_of_outstanding hp hx⟩
    | none => left; simp [completeExchange, hp, hx]
  | idle => left; simp [completeExchange, hp]
  | waitLock rid => left; simp [completeExchange, hp]
  | done r => left; simp [completeExchange, hp]

/-! ### Requests -/

/-- What a ready caller's request does (40_codec.md R101 to R105, 41_channel_mapper.md R133, 42_voltage_scaler.md R161). -/
def requestEffect (i : Instr) (s : State) : Outcome :=
  match i with
  | .encodeCommand rid => .next (s.respond (.okWith (.command (encodeCommand s.params.fillerByte rid))))
  | .decodeReply r0 r1 r2 => .next (s.respond (.okWith (.sample (decodeReply ⟨r0, r1, r2⟩))))
  | .registerIdFor line se =>
    match registerIdFor line se with
    | some rid => .next (s.respond (.okWith (.registerId rid)))
    | none => .refused .lineOutOfContract
  | .performTransaction rid => .next (s.setPhase s.who (.waitLock rid))
  | .readRaw d =>
    match ridOf d with
    | none => .next (s.respond .invalidChannel)
    | some rid => .next (s.setPhase s.who (.waitLock rid))
  | .readScale _ => .next (s.drawMv.2.respond (scaleResponse s.drawMv.1))
  | _ => .next s

/-- A request is its effect behind the gate. -/
theorem exec_request {i : Instr} (h : isRequest i = true) (s : State) :
    exec i s = issueGate s (requestEffect i) := by
  cases i with
  | readRaw d =>
    have hd : requestEffect (.readRaw d) = fun s => match ridOf d with
        | none => .next (s.respond .invalidChannel)
        | some rid => .next (s.setPhase s.who (.waitLock rid)) := rfl
    simp only [exec, execReadRaw, hd]
    cases ridOf d <;> rfl
  | _ => first | rfl | simp [isRequest] at h

/-- The decoder of requests gives requests only. -/
theorem isRequest_of_decodeReq {w : ReqWord} {i : Instr} (h : decodeReq w = .ok i) : isRequest i = true := by
  unfold decodeReq at h
  split at h
  · cases h
  · split at h <;> first
      | cases h; rfl
      | cases h
      | (split at h <;> cases h; rfl)

/-- A wire command does nothing where it is not on the wire. -/
theorem exchange_of_not_onWire {s : State} {rid filler : Byte} (h : s.onWire ⟨Config.startByte, rid, filler⟩ = false) :
    exchange rid filler s = .next s :=
  if_neg (by simp only [h, Bool.false_eq_true, not_false_eq_true])

/-- A wire command that is on the wire completes its transfer. -/
theorem exchange_of_onWire {s : State} {rid filler : Byte} (h : s.onWire ⟨Config.startByte, rid, filler⟩ = true) :
    exchange rid filler s = completeTransfer s :=
  if_pos h

end Sys2Proof.Machine
end

