-- ==== Sys2Proof/Laws/Step.lean ====
section
/-! SUPPORT. What one step can do, once for each event: the inversion lemmas the claims about steps cite. -/

namespace Sys2Proof.Machine

/-- The step of an event listed first in the agenda. -/
theorem step_of_agenda {s : State} {e : Event} {rest : List Event} (h : s.agenda = e :: rest) :
    step s = runEvent e { s with agenda := rest } := by
  simp [step, stepOnce, State.drawEvent, h]

theorem step_of_issue {s : State} {c : CallerId} {w : ReqWord} {rest : List Event} (h : s.agenda = .issue c w :: rest) :
    step s = issueRequest w { s with agenda := rest, who := c } := step_of_agenda h

theorem step_of_acquire {s : State} {c : CallerId} {rest : List Event} (h : s.agenda = .acquire c :: rest) :
    step s = acquireLock c { s with agenda := rest, who := c } := step_of_agenda h

theorem step_of_complete {s : State} {c : CallerId} {rest : List Event} (h : s.agenda = .complete c :: rest) :
    step s = completeExchange { s with agenda := rest, who := c } := step_of_agenda h

theorem step_of_take {s : State} {c : CallerId} {rest : List Event} (h : s.agenda = .take c :: rest) :
    step s = .next (takeResponse c { s with agenda := rest, who := c }) := step_of_agenda h

theorem step_of_attach {s : State} {h : Handles} {rest : List Event} (ha : s.agenda = .attach h :: rest) :
    step s = attachDevice h { s with agenda := rest } := step_of_agenda ha

theorem step_of_detach {s : State} {rest : List Event} (h : s.agenda = .detach :: rest) :
    step s = detachDevice { s with agenda := rest } := step_of_agenda h

/-- The steps that lead to a next state, by their event `e` on the state `u` without it: a caller's step that does
nothing, an issue that runs a request, an acquire, a completion, a take, an attach, or a detach. -/
inductive StepInto (u : State) : Event → State → Prop where
  | idle (e : Event) (t : State) : t = u ∨ (∃ c, t = { u with who := c }) → StepInto u e t
  | issue (c : CallerId) (w : ReqWord) (i : Instr) (t : State) : ReadyFor u c → decodeReq w = .ok i →
      isRequest i = true → requestEffect i { u with who := c } = .next t → StepInto u (.issue c w) t
  | acquire (c : CallerId) (rid : Byte) : u.life = .attached → u.phaseOf c = .waitLock rid → u.lock = none →
      StepInto u (.acquire c) (({ u with
        who := c
        lock := some c
        tx := memWrite3 u.tx (encodeCommand u.params.fillerByte rid)
        xfer := some (encodeCommand u.params.fillerByte rid) }).setPhase c (.inXfer rid))
  | complete (c : CallerId) (rid : Byte) (cmd : Bytes3) : u.phaseOf c = .inXfer rid → u.xfer = some cmd →
      StepInto u (.complete c) (({ u.drawXfer.2 with
        who := c
        rx := rxOf u.rx u.drawXfer.1
        lock := none
        xfer := none }).setPhase c (.done (transactionResponse u.drawXfer.1)))
  | take (c : CallerId) (r : Response) : u.phaseOf c = .done r →
      StepInto u (.take c) ({ u with who := c }.setPhase c .idle)
  | attachFails (h : Handles) (code : RegulatorCode) : u.life = .detached → u.drawEnable.1 = .err code →
      StepInto u (.attach h) { u.drawEnable.2 with attachError := some code }
  | attach (h : Handles) : u.life = .detached → u.drawEnable.1 = .ok →
      StepInto u (.attach h) { u.drawEnable.2 with
        life := .attached, lock := none, tx := [], rx := [], phases := [], handles := some h, attachError := none,
        xfer := none }
  | detach : u.life = .attached → u.lock = none → (∀ c, u.phaseOf c = .idle) →
      StepInto u .detach { u with
        life := .detached, lock := none, tx := [], rx := [], phases := [], handles := none, attachError := none,
        xfer := none }

/-- Every step is the environment's event, run on the state without it. -/
theorem step_eq_runEvent (s : State) : step s = runEvent s.drawEvent.1 s.drawEvent.2 := rfl

/-- The issue step of a request word that decodes. -/
theorem issueRequest_of_ok {s : State} {w : ReqWord} {i : Instr} (h : Ready s) (hw : decodeReq w = .ok i) :
    issueRequest w s = requestEffect i s := by
  rw [issueRequest, issueGate_of_ready h, hw]
  simp only
  rw [exec_request (isRequest_of_decodeReq hw), issueGate_of_ready h]

/-- Everything the issue step can do. -/
theorem issueRequest_cases (w : ReqWord) (s : State) :
    (s.life = .detached ∧ issueRequest w s = .refused .notAttached) ∨
    (s.life = .attached ∧ s.canIssue s.who = false ∧ issueRequest w s = .next s) ∨
    (Ready s ∧ ∃ e, decodeReq w = .error e ∧ issueRequest w s = .refused (refusalOf e)) ∨
    (Ready s ∧ ∃ i, decodeReq w = .ok i ∧ isRequest i = true ∧ issueRequest w s = requestEffect i s) := by
  cases hw : decodeReq w with
  | error e =>
    have hb : issueRequest w s = issueGate s (fun _ => .refused (refusalOf e)) := by simp only [issueRequest, hw]
    rw [hb]
    rcases issueGate_cases s (fun _ => .refused (refusalOf e)) with h | h | ⟨hr, h⟩
    · exact .inl h
    · exact .inr (.inl h)
    · exact .inr (.inr (.inl ⟨hr, e, rfl, h⟩))
  | ok i =>
    rcases issueGate_cases s (exec i) with h | h | ⟨hr, -⟩
    · exact .inl ⟨h.1, by simpa only [issueRequest, hw] using h.2⟩
    · exact .inr (.inl ⟨h.1, h.2.1, by simpa only [issueRequest, hw] using h.2.2⟩)
    · exact .inr (.inr (.inr ⟨hr, i, rfl, isRequest_of_decodeReq hw, issueRequest_of_ok hr hw⟩))

/-- Everything a ready caller's request can do when it gives a next state: it responds, or waits for the lock, on the
state itself or, for READ_SCALE, on the state less one regulator answer. -/
theorem requestEffect_cases {i : Instr} {s t : State} (hi : isRequest i = true) (h : requestEffect i s = .next t) :
    (∃ rid, t = s.setPhase s.who (.waitLock rid)) ∨
    (∃ r, r.fits s.params = true ∧ t = s.respond r ∧ isReadScale i = false) ∨
    (isReadScale i = true ∧ t = s.drawMv.2.respond (scaleResponse s.drawMv.1)) := by
  cases i with
  | encodeCommand rid => cases h; exact .inr (.inl ⟨_, rfl, rfl, rfl⟩)
  | decodeReply r0 r1 r2 => cases h; exact .inr (.inl ⟨_, rfl, rfl, rfl⟩)
  | registerIdFor line se =>
    simp only [requestEffect] at h
    split at h
    · cases h; exact .inr (.inl ⟨_, rfl, rfl, rfl⟩)
    · cases h
  | performTransaction rid => cases h; exact .inl ⟨rid, rfl⟩
  | readRaw d =>
    simp only [requestEffect] at h
    split at h
    · cases h; exact .inr (.inl ⟨_, rfl, rfl, rfl⟩)
    · cases h; exact .inl ⟨_, rfl⟩
  | readScale d => cases h; exact .inr (.inr ⟨rfl, rfl⟩)
  | _ => simp [isRequest] at hi

/-- The response to an answer the parameters admit has their widths. -/
theorem scaleResponse_fits {p : Params} {a : MvAnswer} (h : mvFits p a = true) : (scaleResponse a).fits p = true := by
  cases a <;> simpa [scaleResponse, Response.fits, Response.okWith, Response.regulatorUnavailable, mvFits] using h

/-- The response to an answer the parameters admit has their widths. -/
theorem transactionResponse_fits {p : Params} {a : XferAnswer} (h : xferFits p a = true) :
    (transactionResponse a).fits p = true := by
  cases a <;> simpa [transactionResponse, Response.fits, Response.okWith, Response.transportError, xferFits] using h

/-- Everything the take step can do. -/
theorem takeResponse_cases (c : CallerId) (s : State) :
    (∃ r, s.phaseOf c = .done r ∧ takeResponse c s = s.setPhase c .idle) ∨
    ((∀ r, s.phaseOf c ≠ .done r) ∧ takeResponse c s = s) := by
  cases hp : s.phaseOf c with
  | done r => left; exact ⟨r, rfl, by simp [takeResponse, hp]⟩
  | idle => right; exact ⟨nofun, by simp [takeResponse, hp]⟩
  | waitLock rid => right; exact ⟨nofun, by simp [takeResponse, hp]⟩
  | inXfer rid => right; exact ⟨nofun, by simp [takeResponse, hp]⟩

/-- What a successful attach gives (10_state.md R45). -/
def attachedState (h : Handles) (s : State) : State :=
  { s with life := .attached, lock := none, tx := [], rx := [], phases := [], handles := some h, attachError := none,
           xfer := none }

/-- What a detach gives (70_reset_and_hazards.md R223). -/
def detachedState (s : State) : State :=
  { s with life := .detached, lock := none, tx := [], rx := [], phases := [], handles := none, attachError := none,
           xfer := none }

/-- Everything the attach step can do. -/
theorem attachDevice_cases (h : Handles) (s : State) :
    (s.life = .attached ∧ attachDevice h s = .next s) ∨
    (s.life = .detached ∧ ∃ code, s.drawEnable.1 = .err code ∧
      attachDevice h s = .next { s.drawEnable.2 with attachError := some code }) ∨
    (s.life = .detached ∧ s.drawEnable.1 = .ok ∧ attachDevice h s = .next (attachedState h s.drawEnable.2)) := by
  cases hl : s.life with
  | attached => left; simp [attachDevice, hl]
  | detached =>
    right
    simp only [attachDevice, hl]
    generalize s.drawEnable = d
    obtain ⟨a, s'⟩ := d
    cases a with
    | ok => right; simp [attachedState]
    | err code => left; simp

/-- Every listed caller is idle exactly when every caller is. -/
theorem State.allIdle_iff {s : State} : s.allIdle = true ↔ ∀ c, s.phaseOf c = .idle := by
  simp only [State.allIdle, List.all_eq_true, Phase.isIdle_iff]
  constructor
  · intro h c
    cases hg : Assoc.get s.phases c with
    | none => simp [State.phaseOf, hg]
    | some p => exact h _ (Assoc.mem_of_get hg)
  · intro h p _
    exact h p.1

/-- Everything the detach step can do. -/
theorem detachDevice_cases (s : State) :
    (s.life = .detached ∧ detachDevice s = .next s) ∨
    (s.life = .attached ∧ s.lock = none ∧ (∀ c, s.phaseOf c = .idle) ∧
      detachDevice s = .next (detachedState s)) ∨
    (s.life = .attached ∧ (s.lock ≠ none ∨ ∃ c, s.phaseOf c ≠ .idle) ∧ detachDevice s = .refused .detachBusy) := by
  by_cases hl : s.life = .attached
  · right
    by_cases h : s.lock = none ∧ s.allIdle = true
    · left
      refine ⟨hl, h.1, State.allIdle_iff.1 h.2, ?_⟩
      simp only [detachDevice, hl, if_pos h]
      rfl
    · right
      refine ⟨hl, ?_, by simp only [detachDevice, hl, if_neg h]⟩
      by_cases hk : s.lock = none
      · right
        by_contra hc
        exact h ⟨hk, State.allIdle_iff.2 fun c => by_contra fun hp => hc ⟨c, hp⟩⟩
      · exact .inl hk
  · have hl : s.life = .detached := by cases h : s.life <;> simp_all
    left; simp [detachDevice, hl]

/-- The draw does not read which caller's step it is. -/
theorem State.drawXfer_who_eq (u : State) (c : CallerId) :
    ({ u with who := c } : State).drawXfer = (u.drawXfer.1, { u.drawXfer.2 with who := c }) := by
  simp only [State.drawXfer]
  cases u.xferAnswers <;> rfl

/-- The inversion of a step that gives a next state. -/
theorem step_into {s t : State} (h : step s = .next t) : StepInto s.drawEvent.2 s.drawEvent.1 t := by
  rw [step_eq_runEvent] at h
  generalize s.drawEvent.2 = u at h ⊢
  generalize s.drawEvent.1 = e at h ⊢
  cases e with
  | issue c w =>
    change issueRequest w { u with who := c } = .next t at h
    rcases issueRequest_cases w { u with who := c } with ⟨_, e⟩ | ⟨_, _, e⟩ | ⟨_, _, _, e⟩ | ⟨hr, i, hw, hi, e⟩ <;>
      rw [e] at h
    · cases h
    · cases h; exact .idle _ _ (.inr ⟨c, rfl⟩)
    · cases h
    · exact .issue c w i t hr hw hi h
  | acquire c =>
    change acquireLock c { u with who := c } = .next t at h
    rcases acquireLock_cases c { u with who := c } with e | ⟨rid, hl, hp, hk, e⟩ <;> rw [e] at h <;> cases h
    · exact .idle _ _ (.inr ⟨c, rfl⟩)
    · exact .acquire c rid hl hp hk
  | complete c =>
    change completeExchange { u with who := c } = .next t at h
    rcases completeExchange_cases { u with who := c } with e | ⟨rid, cmd, hp, hx, e⟩ <;> rw [e] at h
    · cases h; exact .idle _ _ (.inr ⟨c, rfl⟩)
    · rw [completeTransfer_eq, State.drawXfer_who_eq] at h
      cases h
      exact .complete c rid cmd hp hx
  | take c =>
    change Host.Outcome.next (takeResponse c { u with who := c }) = .next t at h
    rcases takeResponse_cases c { u with who := c } with ⟨r, hp, e⟩ | ⟨_, e⟩ <;> rw [e] at h <;> cases h
    · exact .take c r hp
    · exact .idle _ _ (.inr ⟨c, rfl⟩)
  | attach hd =>
    change attachDevice hd u = .next t at h
    rcases attachDevice_cases hd u with ⟨_, e⟩ | ⟨hl, code, hc, e⟩ | ⟨hl, ho, e⟩ <;> rw [e] at h <;> cases h
    · exact .idle _ _ (.inl rfl)
    · exact .attachFails hd code hl hc
    · exact .attach hd hl ho
  | detach =>
    change detachDevice u = .next t at h
    rcases detachDevice_cases u with ⟨_, e⟩ | ⟨hl, hk, hp, e⟩ | ⟨_, _, e⟩ <;> rw [e] at h <;> cases h
    · exact .idle _ _ (.inl rfl)
    · exact .detach hl hk hp

/-- A run of no steps. -/
@[simp] theorem run_zero (s : State) : Sys2Proof.core.run 0 s = .next s := rfl

/-- A run whose first step gives a next state. -/
theorem run_succ_of_next {k : Nat} {s s' : State} (h : step s = .next s') :
    Sys2Proof.core.run (k + 1) s = Sys2Proof.core.run k s' := by
  refine (Host.Core.run.eq_2 Sys2Proof.core s k).trans ?_
  have h' : Sys2Proof.core.step s = .next s' := h
  rw [h']

/-- A run of one step more gives a next state only through its first step. -/
theorem run_succ_cases {k : Nat} {s t : State} (h : Sys2Proof.core.run (k + 1) s = .next t) :
    ∃ s', step s = .next s' ∧ Sys2Proof.core.run k s' = .next t := by
  have hs : Sys2Proof.core.step s = step s := rfl
  have h := (Host.Core.run.eq_2 Sys2Proof.core s k).symm.trans h
  rw [hs] at h
  cases hr : step s with
  | next s' => rw [hr] at h; exact ⟨s', rfl, h⟩
  | fault f => rw [hr] at h; cases h
  | refused r => rw [hr] at h; cases h

end Sys2Proof.Machine
end

