-- ==== Sys2Proof/Tests/Slice0.lean ====
section
/-! SUPPORT. The model's own tests. Every expected value is from the spec: the words from 30_encoding.md R70 to R88, the
results from 95_test_vectors.md. Then, for every obligation with hypotheses, a state and operands that meet them. -/

namespace Sys2Proof.Tests

open Sys2Proof.Machine

/-! ### Well-formedness -/

/-- The one check, lines 0 to 7, refuses line 8. -/
theorem test_wellFormed_refuses_line_8 : (Instr.registerIdFor 8 true).wellFormed = false := by decide
theorem test_wellFormed_accepts_line_7 : (Instr.registerIdFor 7 true).wellFormed = true := by decide

/-! ### Decoding: words written out from the spec's encodings -/

/-- ENCODE_COMMAND: op 000, zeros, rid 7:0 (30_encoding.md R86). -/
theorem test_decode_encodeCommand :
    decodeReq (0b000#3 ++ (0#21 ++ 0b10110000#8)) = .ok (.encodeCommand 0xB0) := by decide
/-- DECODE_REPLY: op 001, zeros, r0, r1, r2. -/
theorem test_decode_decodeReply :
    decodeReq (0b001#3 ++ (0#5 ++ (0b00010010#8 ++ (0b11111101#8 ++ 0b10000000#8)))) =
      .ok (.decodeReply 0x12 0xFD 0x80) := by decide
/-- REGISTER_ID_FOR: op 010, zeros, line 15:8, zeros, se 0. -/
theorem test_decode_registerIdFor :
    decodeReq (0b010#3 ++ (0#13 ++ (0b00000011#8 ++ (0#7 ++ 0b1#1)))) = .ok (.registerIdFor 3 true) := by decide
/-- PERFORM_TRANSACTION: op 011, zeros, rid 7:0. -/
theorem test_decode_performTransaction :
    decodeReq (0b011#3 ++ (0#21 ++ 0b11111111#8)) = .ok (.performTransaction 0xFF) := by decide
/-- READ_RAW: op 100, diff 28, hp 27, zeros, primary, pair, zeros. -/
theorem test_decode_readRaw :
    decodeReq (0b100#3 ++ (0b1#1 ++ (0b1#1 ++ (0#3 ++ (0b00000110#8 ++ (0b00000111#8 ++ 0#8)))))) =
      .ok (.readRaw (.df 6 7)) := by decide
/-- READ_SCALE: op 101, as READ_RAW; a single-ended descriptor with a pair. -/
theorem test_decode_readScale :
    decodeReq (0b101#3 ++ (0b0#1 ++ (0b1#1 ++ (0#3 ++ (0b00000011#8 ++ (0b00000011#8 ++ 0#8)))))) =
      .ok (.readScale ⟨false, 3, some 3⟩) := by decide

/-- 30_encoding.md R70, R74, R76: start byte, then mode bit, line and four zeros, then any filler, for every channel. -/
theorem test_decode_single_ended_commands :
    decodeCmd ⟨0b00000001, 0b1#1 ++ (0b000#3 ++ 0#4), 0xA5⟩ = .ok (.sampleSE0 0xA5) ∧
    decodeCmd ⟨0b00000001, 0b1#1 ++ (0b001#3 ++ 0#4), 0xA5⟩ = .ok (.sampleSE1 0xA5) ∧
    decodeCmd ⟨0b00000001, 0b1#1 ++ (0b010#3 ++ 0#4), 0xA5⟩ = .ok (.sampleSE2 0xA5) ∧
    decodeCmd ⟨0b00000001, 0b1#1 ++ (0b011#3 ++ 0#4), 0xA5⟩ = .ok (.sampleSE3 0xA5) ∧
    decodeCmd ⟨0b00000001, 0b1#1 ++ (0b100#3 ++ 0#4), 0xA5⟩ = .ok (.sampleSE4 0xA5) ∧
    decodeCmd ⟨0b00000001, 0b1#1 ++ (0b101#3 ++ 0#4), 0xA5⟩ = .ok (.sampleSE5 0xA5) ∧
    decodeCmd ⟨0b00000001, 0b1#1 ++ (0b110#3 ++ 0#4), 0xA5⟩ = .ok (.sampleSE6 0xA5) ∧
    decodeCmd ⟨0b00000001, 0b1#1 ++ (0b111#3 ++ 0#4), 0xA5⟩ = .ok (.sampleSE7 0xA5) := by decide
theorem test_decode_differential_commands :
    decodeCmd ⟨0b00000001, 0b0#1 ++ (0b000#3 ++ 0#4), 0x00⟩ = .ok (.sampleDIFF0_1 0x00) ∧
    decodeCmd ⟨0b00000001, 0b0#1 ++ (0b001#3 ++ 0#4), 0x00⟩ = .ok (.sampleDIFF1_0 0x00) ∧
    decodeCmd ⟨0b00000001, 0b0#1 ++ (0b010#3 ++ 0#4), 0x00⟩ = .ok (.sampleDIFF2_3 0x00) ∧
    decodeCmd ⟨0b00000001, 0b0#1 ++ (0b011#3 ++ 0#4), 0x00⟩ = .ok (.sampleDIFF3_2 0x00) ∧
    decodeCmd ⟨0b00000001, 0b0#1 ++ (0b100#3 ++ 0#4), 0x00⟩ = .ok (.sampleDIFF4_5 0x00) ∧
    decodeCmd ⟨0b00000001, 0b0#1 ++ (0b101#3 ++ 0#4), 0x00⟩ = .ok (.sampleDIFF5_4 0x00) ∧
    decodeCmd ⟨0b00000001, 0b0#1 ++ (0b110#3 ++ 0#4), 0x00⟩ = .ok (.sampleDIFF6_7 0x00) ∧
    decodeCmd ⟨0b00000001, 0b0#1 ++ (0b111#3 ++ 0#4), 0x00⟩ = .ok (.sampleDIFF7_6 0x00) := by decide
/-- An id with a low bit set and a start byte other than 0x01 are no rows of the table. -/
theorem test_decode_refuses_other_commands :
    decodeCmd ⟨0x01, 0x81, 0x00⟩ = .error .unlistedRid ∧ decodeCmd ⟨0x03, 0x80, 0x00⟩ = .error .badStartByte := by decide

/-- The table's numbering of a 24-bit row (20_memory.md R54), and of a 32-bit row. -/
theorem test_decode_table_words :
    decodeTableWord 24 0x01F000 = some (.sampleSE7 0x00) ∧ decodeTableWord 24 0x017000 = some (.sampleDIFF7_6 0x00) ∧
    decodeTableWord 32 0x40000301 = some (.registerIdFor 3 true) ∧ decodeTableWord 32 0xC0000000 = none := by decide

/-- 95_test_vectors.md V7. -/
theorem test_decode_V7_reserved :
    decodeReq 0xC0000000 = .error .reservedOp ∧ decodeReq 0xE0000000 = .error .reservedOp ∧
    decodeReq 0x00000100 = .error .reservedBitSet ∧ decodeReq 0x21000000 = .error .reservedBitSet ∧
    decodeReq 0x40000802 = .error .reservedBitSet ∧ decodeReq 0x40FF0001 = .error .reservedBitSet ∧
    decodeReq 0x5F000000 = .error .reservedBitSet ∧ decodeReq 0x80030001 = .error .reservedBitSet ∧
    decodeReq 0x84030000 = .error .reservedBitSet ∧ decodeReq 0x1FFFFFFF = .error .reservedBitSet := by decide
theorem test_decode_V7_pair :
    decodeReq 0x80030100 = .error .pairWithoutHp ∧ decodeReq 0xA0030100 = .error .pairWithoutHp ∧
    decodeReq 0x20FFFFFF = .ok (.decodeReply 0xFF 0xFF 0xFF) := by decide

/-- 00_scope.md R8: the counts of the channel table, and the bytes of a transfer. -/
theorem test_fixed_parameters :
    channelTable.length = Config.nChan ∧ (channelTable.filter (·.diff)).length = Config.nDiff ∧
    (channelTable.filter (!·.diff)).length = Config.nSe ∧ channelNames.length = Config.nChan ∧
    2 ^ Config.lineWidth = Config.nLines ∧ 8 * Config.xferLen = 24 ∧ Config.scaleExp = Config.resBits := by decide

/-! ### The pure functions: 95_test_vectors.md V1 to V3 -/

theorem test_encode_command_V1 :
    encodeCommand 0x00 0x0F = ⟨0x01, 0x0F, 0x00⟩ ∧ encodeCommand 0xA5 0xB0 = ⟨0x01, 0xB0, 0xA5⟩ := by decide
theorem test_decode_reply_V2 :
    decodeReply ⟨0xFF, 0xFF, 0xFF⟩ = 1023 ∧ decodeReply ⟨0xAA, 0xFC, 0x00⟩ = 0 ∧ decodeReply ⟨0x12, 0xFD, 0x80⟩ = 384 ∧
    decodeReply ⟨0x00, 0x04, 0x00⟩ = 0 ∧ decodeReply ⟨0x55, 0x02, 0xAA⟩ = 682 ∧ decodeReply ⟨0, 1, 0⟩ = 256 := by decide
theorem test_register_id_for_V3 :
    registerIdFor 0 true = some 0x80 ∧ registerIdFor 3 true = some 0xB0 ∧ registerIdFor 7 true = some 0xF0 ∧
    registerIdFor 0 false = some 0x00 ∧ registerIdFor 7 false = some 0x70 ∧ registerIdFor 8 true = none ∧
    registerIdFor 255 true = none := by decide

/-! ### Small states -/

/-- After a successful attach, with two callers, a filler of 0xA5, codes of 8 bits and a reference voltage of 32. -/
def idle : State := { State.reset with params := ⟨0xA5, 1, 8, 8, 32⟩ }

/-- Two callers wait for a free lock. -/
def waiting : State := { idle with phases := [(0, .waitLock 0xB0), (1, .waitLock 0x60)] }

/-- Caller 0 is in its transfer, and caller 1 waits. -/
def transferring : State :=
  { idle with
    lock := some 0
    tx := [(0, 0x01), (1, 0xB0), (2, 0xA5)]
    phases := [(0, .inXfer 0xB0), (1, .waitLock 0x60)]
    xfer := some ⟨0x01, 0xB0, 0xA5⟩ }

/-- Caller 0 has a response to take. -/
def responded : State := { idle with phases := [(0, .done ⟨.ok, .sample 564⟩)] }

/-- No instance. -/
def detached : State := { idle with life := .detached, handles := none }

/-- Caller 0 in the transfer of a register id, with filler 0x00, codes of 8 bits, and one answer to come. -/
def sending (rid : Byte) (answer : XferAnswer) : State :=
  { idle with
    params := ⟨0x00, 1, 8, 8, 32⟩
    lock := some 0
    tx := [(0, 0x01), (1, rid), (2, 0x00)]
    phases := [(0, .inXfer rid)]
    xfer := some ⟨0x01, rid, 0x00⟩
    xferAnswers := [answer] }

/-- A state with its next events. -/
def doing (s : State) (l : List Event) : State := { s with agenda := l }

/-- A state with one request word to be issued by caller 0. -/
def issuing (w : ReqWord) (s : State) : State := doing s [.issue 0 w]

/-- The phase of a caller after a step. -/
def phaseAfter (o : Outcome) (c : CallerId) : Option Phase :=
  match o with
  | .next s => some (s.phaseOf c)
  | .fault _ => none
  | .refused _ => none

/-- An error code of each collaborator, the largest of 8 bits. -/
def transportCode : TransportCode := 255
def regulatorCode : RegulatorCode := 255

/-! ### One step of each request: 95_test_vectors.md V1 to V6 -/

theorem test_step_encode_command :
    step (issuing 0x000000B0 State.reset) =
      .next (State.reset.setPhase 0 (.done ⟨.ok, .command ⟨0x01, 0xB0, 0x00⟩⟩)) := rfl
theorem test_step_decode_reply :
    phaseAfter (step (issuing 0x2012FD80 idle)) 0 = some (.done ⟨.ok, .sample 384⟩) := rfl
theorem test_step_register_id_for :
    phaseAfter (step (issuing 0x40000701 idle)) 0 = some (.done ⟨.ok, .registerId 0xF0⟩) := rfl
theorem test_step_register_id_for_line_8 : step (issuing 0x40000801 idle) = .refused .lineOutOfContract := rfl
theorem test_step_perform_transaction :
    phaseAfter (step (issuing 0x600000FF idle)) 0 = some (.waitLock 0xFF) := rfl
theorem test_step_read_raw :
    phaseAfter (step (issuing 0x98070600 idle)) 0 = some (.waitLock 0x70) := rfl
theorem test_step_read_raw_invalid :
    phaseAfter (step (issuing 0x98000200 idle)) 0 = some (.done ⟨.invalidChannel, .unit⟩) := rfl
/-- V6 at the default width of 32 bits, from the reset state: 3300 mV, and the largest value. -/
theorem test_step_read_scale :
    phaseAfter (step { issuing 0xA0000000 State.reset with mvAnswers := [.ok 3300] }) 0 =
      some (.done ⟨.ok, .scale 3300 10⟩) ∧
    phaseAfter (step { issuing 0xA0000000 State.reset with mvAnswers := [.ok 4294967295] }) 0 =
      some (.done ⟨.ok, .scale 4294967295 10⟩) := ⟨rfl, rfl⟩
theorem test_step_read_scale_error :
    phaseAfter (step { issuing 0xA0030000 idle with mvAnswers := [.err regulatorCode] }) 0 =
      some (.done ⟨.regulatorUnavailable, .regulatorCode regulatorCode⟩) := rfl

/-! ### The wire commands: 95_test_vectors.md V4, V5 -/

/-- Each of the sixteen, on the wire, answered `[0x00, 0x02, 0x34]`: OK(564), and the lock is free. -/
theorem test_wire_commands_ok :
    ∀ p ∈ wireCommands 0x00, ∃ t, exec p.1 (sending p.2.2 (.ok ⟨0x00, 0x02, 0x34⟩)) = .next t ∧
      t.phaseOf 0 = .done ⟨.ok, .sample 564⟩ ∧ t.lock = none ∧ t.rx = [(0, 0x00), (1, 0x02), (2, 0x34)] := by
  simp only [wireCommands, List.forall_mem_cons]
  and_intros <;> first | exact ⟨_, rfl, rfl, rfl, rfl⟩ | simp
/-- Each of the sixteen, failed by the transport: TRANSPORT_ERROR with its code, `rx` unwritten, the lock free. -/
theorem test_wire_commands_error :
    ∀ p ∈ wireCommands 0x00, ∃ t, exec p.1 (sending p.2.2 (.err transportCode)) = .next t ∧
      t.phaseOf 0 = .done ⟨.transportError, .transportCode transportCode⟩ ∧ t.lock = none ∧ t.rx = [] := by
  simp only [wireCommands, List.forall_mem_cons]
  and_intros <;> first | exact ⟨_, rfl, rfl, rfl, rfl⟩ | simp

/-! ### The other steps: 95_test_vectors.md V4, V8 -/

theorem test_acquire :
    ∃ t, step (doing waiting [.acquire 0]) = .next t ∧ t.lock = some 0 ∧
      t.tx = [(0, 0x01), (1, 0xB0), (2, 0xA5)] ∧ t.phaseOf 0 = .inXfer 0xB0 ∧ t.phaseOf 1 = .waitLock 0x60 :=
  ⟨_, rfl, rfl, rfl, rfl, rfl⟩
/-- An id outside the sixteen completes too (V4, third row). -/
theorem test_complete_unlisted_rid :
    phaseAfter (step (doing (sending 0xFF (.ok ⟨0, 0, 0⟩)) [.complete 0])) 0 = some (.done ⟨.ok, .sample 0⟩) := rfl
theorem test_take : phaseAfter (step (doing responded [.take 0])) 0 = some .idle := rfl
theorem test_detach_busy :
    step (doing responded [.detach]) = .refused .detachBusy ∧ step (doing transferring [.detach]) = .refused .detachBusy :=
  ⟨rfl, rfl⟩
theorem test_attach_fails :
    ∃ t, step { doing detached [.attach ⟨1, 2⟩] with enableAnswers := [.err regulatorCode] } = .next t ∧
      t.life = .detached ∧ t.attachOutcome = some ⟨.regulatorEnableFailed, .regulatorCode regulatorCode⟩ :=
  ⟨_, rfl, rfl, rfl⟩

/-! ### The fetch -/

/-- The next step runs the placed request word, and the placed wire command. -/
theorem test_withFetchWord_request :
    step (State.reset.withFetchWord 32 0x80030000) = .next (State.reset.setPhase 0 (.waitLock 0xB0)) := rfl
theorem test_withFetchWord_command :
    ∃ s, step (State.reset.withFetchWord 24 0x01B000) = execSampleSE3 0x00 s ∧ s.phaseOf 0 = .inXfer 0xB0 ∧
      s.onWire ⟨0x01, 0xB0, 0x00⟩ = true :=
  ⟨{ State.reset.withFetchWord 24 0x01B000 with agenda := [] }, rfl, rfl, rfl⟩

/-! ### Witnesses: states and operands that meet an obligation's hypotheses -/

theorem idle_ready : Ready idle := ⟨rfl, by decide, rfl⟩

theorem inv_idle : Inv idle := by
  constructor <;> simp [idle, State.reset, State.phaseOf] <;> rfl

theorem inv_transferring : Inv transferring where
  txForm := rfl
  rxForm := rfl
  phasesForm := rfl
  detachedEmpty := nofun
  attachedBound _ := ⟨rfl, rfl⟩
  ownerInXfer c := by
    rcases c with _ | _ | c
    · exact ⟨fun _ => ⟨0xB0, rfl⟩, fun _ => rfl⟩
    · exact ⟨nofun, nofun⟩
    · exact ⟨nofun, nofun⟩
  wireCommand c rid h := by
    rcases c with _ | _ | c
    · cases h; exact ⟨rfl, rfl⟩
    · cases h
    · cases h
  xferNeedsLock := nofun
  txWhole := .inr ⟨0xB0, rfl⟩
  rxWhole := .inl rfl
  responsesFit c r h := by
    rcases c with _ | _ | c <;> cases h
  attachErrorFits := nofun

theorem inv_waiting : Inv waiting where
  txForm := rfl
  rxForm := rfl
  phasesForm := rfl
  detachedEmpty := nofun
  attachedBound _ := ⟨rfl, rfl⟩
  ownerInXfer c := by
    rcases c with _ | _ | c <;> exact ⟨nofun, nofun⟩
  wireCommand c rid h := by
    rcases c with _ | _ | c <;> cases h
  xferNeedsLock _ := rfl
  txWhole := .inl rfl
  rxWhole := .inl rfl
  responsesFit c r h := by
    rcases c with _ | _ | c <;> cases h
  attachErrorFits := nofun

theorem inv_responded : Inv responded :=
  inv_idle.setPhase (c := 0) (p := .done ⟨.ok, .sample 564⟩) (by decide) rfl nofun nofun (fun _ h => by cases h; rfl)

/-- The invariant reads neither the agenda nor the answers. -/
theorem inv_doing {s : State} (h : Inv s) (l : List Event) : Inv (doing s l) :=
  h.congr rfl rfl rfl rfl rfl rfl rfl rfl rfl
theorem inv_answered {s : State} (h : Inv s) (l : List Event) (answers : List XferAnswer) :
    Inv { doing s l with xferAnswers := answers } := h.congr rfl rfl rfl rfl rfl rfl rfl rfl rfl

theorem witness_AcceptedCodeIsTheEncoding :
    decode (.cmd ⟨0x01, 0xB0, 0xA5⟩) = .ok (.sampleSE3 0xA5) ∧
    decode (.req 0x80030000) = .ok (.readRaw (.se 3)) := by decide
/-- The words at the ends of each condition. -/
theorem witness_RequestDecoderRefusesExactly :
    decodeReq 0xFFFFFFFF = .error .reservedOp ∧ decodeReq 0xBFFFFFFF = .error .reservedBitSet ∧
    decodeReq 0xA000FF00 = .error .pairWithoutHp ∧ decodeReq 0xB8FFFF00 = .ok (.readScale (.df 255 255)) ∧
    decodeReq 0x00000000 = .ok (.encodeCommand 0) := by decide
theorem witness_ChannelCommandTable : (.sampleDIFF7_6 0xA5, .df 7 6, 0x70) ∈ wireCommands 0xA5 := by decide
theorem witness_CodecLaws :
    (7 : Byte).toNat ≤ 7 ∧ (0 : Byte).toNat ≤ 7 ∧ registerIdFor 7 false = registerIdFor 7 false := by decide
theorem witness_RegisterIdLayout : Desc.se 0 ∈ channelTable ∧ Desc.df 7 6 ∈ channelTable := by decide
theorem witness_ValidExactlyTableEntries :
    validDesc (.se 7) = true ∧ validDesc (.se 8) = false ∧ validDesc (.df 7 6) = true ∧ validDesc (.df 8 9) = false ∧
    validDesc ⟨true, 0, none⟩ = false ∧ validDesc ⟨false, 3, some 3⟩ = false := by decide
theorem witness_MapperOperands :
    validDesc (.df 0 1) = true ∧ validDesc (.df 1 0) = true ∧ validDesc (.se 7) = true := by decide
theorem witness_MapperProducesSixteenIds : ridOf (.se 7) = some 0xF0 ∧ ridOf (.df 0 1) = some 0x00 := by decide
theorem witness_DecoderIgnoresExactly :
    decodeReply ⟨0xFF, 0xFE, 0x34⟩ = decodeReply ⟨0x00, 0x02, 0x34⟩ ∧
    decodeReply ⟨0x00, 0x01, 0x34⟩ ≠ decodeReply ⟨0x00, 0x02, 0x34⟩ := by decide

theorem witness_EncodeCommandCompletes : Ready idle := idle_ready
theorem witness_DecodeReplyCompletes : Ready idle := idle_ready
/-- Both clauses, at the lines where they meet. -/
theorem witness_RegisterIdForCompletesOrIsRefused : Ready idle ∧ (7 : Byte).toNat ≤ 7 ∧ 7 < (8 : Byte).toNat :=
  ⟨idle_ready, by decide, by decide⟩
theorem witness_PerformTransactionIssues : Ready idle := idle_ready
theorem witness_ReadRawIssuesItsRegister : Ready idle ∧ Desc.df 7 6 ∈ channelTable := ⟨idle_ready, by decide⟩
theorem witness_InvalidReadRawCompletesAtIssue :
    Ready idle ∧ Desc.se 8 ∉ channelTable ∧ Desc.df 0 2 ∉ channelTable := ⟨idle_ready, by decide, by decide⟩
theorem witness_ReadScaleReportsTheRegulator :
    (Ready { idle with mvAnswers := [.err regulatorCode] } ∧ mvFits idle.params (.err regulatorCode) = true) ∧
    (Ready { idle with mvAnswers := [.ok 4294967295] } ∧ mvFits idle.params (.ok 4294967295) = true) :=
  ⟨⟨⟨rfl, by decide, rfl⟩, by decide⟩, ⟨rfl, by decide, rfl⟩, by decide⟩
theorem witness_ReadScaleCompletesOnFreeAnswers : Ready idle ∧ idle.mvAnswers = [] := ⟨idle_ready, rfl⟩
theorem witness_ReadScaleIgnoresItsDescriptor : Ready idle ∧ ∃ t, exec (.readScale (.se 8)) idle = .next t :=
  ⟨idle_ready, _, rfl⟩
theorem witness_WellFormedRequestsComplete :
    isRequest (.registerIdFor 7 true) = true ∧ (Instr.registerIdFor 7 true).wellFormed = true ∧ Ready idle :=
  ⟨rfl, by decide, idle_ready⟩

/-- With an answer listed, and with none. -/
theorem witness_WireCommandsCompleteTheirTransfer :
    (.sampleSE3 0xA5, .se 3, 0xB0) ∈ wireCommands 0xA5 ∧
    transferring.phaseOf transferring.who = .inXfer 0xB0 ∧ transferring.xfer = some ⟨0x01, 0xB0, 0xA5⟩ ∧
    transferring.xferAnswers = [] ∧
    (sending 0xF0 (.err transportCode)).phaseOf 0 = .inXfer 0xF0 ∧
    (sending 0xF0 (.err transportCode)).xferAnswers = [.err transportCode] :=
  ⟨by decide, rfl, rfl, rfl, rfl, rfl⟩
/-- The wrong command in a transfer, and the right one without a transfer. -/
theorem witness_WireCommandsOffTheWireDoNothing :
    (.sampleSE0 0xA5, .se 0, 0x80) ∈ wireCommands 0xA5 ∧ transferring.xfer ≠ some ⟨0x01, 0x80, 0xA5⟩ ∧
    ∀ rid, idle.phaseOf idle.who ≠ .inXfer rid := ⟨by decide, by decide, nofun⟩

theorem witness_AcquireStep :
    waiting.life = .attached ∧ waiting.phaseOf 1 = .waitLock 0x60 ∧ waiting.lock = none := ⟨rfl, rfl, rfl⟩
/-- The lock free, and the lock held. -/
theorem witness_AnyWaiterTakesOnlyAFreeLock :
    (waiting.phaseOf 1 = .waitLock 0x60 ∧ waiting.lock = none) ∧
    (transferring.life = .attached ∧ transferring.phaseOf 1 = .waitLock 0x60 ∧ transferring.lock = some 0) :=
  ⟨⟨rfl, rfl⟩, rfl, rfl, rfl⟩
/-- Answered, failed, and with no answer listed. -/
theorem witness_CompletionStep :
    Inv (doing transferring [.complete 0]) ∧ Inv { doing transferring [.complete 0] with xferAnswers := [.ok ⟨0, 2, 0x34⟩] } ∧
    Inv { doing transferring [.complete 0] with xferAnswers := [.err transportCode] } ∧
    transferring.phaseOf 0 = .inXfer 0xB0 ∧ transportCode < 2 ^ transferring.params.terrWidth :=
  ⟨inv_doing inv_transferring _, inv_answered inv_transferring _ _, inv_answered inv_transferring _ _, rfl, by decide⟩
theorem witness_PerformTransactionRuns :
    ReadyFor { doing idle [.issue 1 0x600000FF, .acquire 1, .complete 1] with xferAnswers := [.err transportCode] } 1 ∧
    xferFits idle.params (.err transportCode) = true ∧ idle.lock = none ∧ (0x600000FF : ReqWord) = 0x60000000 ||| (0xFF : Byte).setWidth 32 :=
  ⟨⟨rfl, by decide, rfl⟩, by decide, rfl, by decide⟩
theorem witness_ReadRawRuns :
    ReadyFor { doing idle [.issue 1 0x98070600, .acquire 1, .complete 1] with xferAnswers := [.err transportCode] } 1 ∧
    xferFits idle.params (.err transportCode) = true ∧ idle.lock = none ∧ decodeReq 0x98070600 = .ok (.readRaw (.df 7 6)) ∧ Desc.df 7 6 ∈ channelTable ∧
    registerIdFor 7 (!(Desc.df 7 6).diff) = some 0x70 :=
  ⟨⟨rfl, by decide, rfl⟩, by decide, rfl, by decide, by decide, by decide⟩
theorem witness_FailureThenRecovery :
    ReadyFor { doing idle [.issue 0 0x98010000, .acquire 0, .complete 0, .take 0, .issue 0 0x98010000, .acquire 0,
                           .complete 0] with xferAnswers := [.err transportCode, .ok ⟨0x00, 0x03, 0xFF⟩] } 0 ∧
    transportCode < 2 ^ idle.params.terrWidth ∧ idle.lock = none ∧ decodeReq 0x98010000 = .ok (.readRaw (.df 1 0)) ∧ Desc.df 1 0 ∈ channelTable :=
  ⟨⟨rfl, by decide, rfl⟩, by decide, rfl, by decide, by decide⟩
theorem witness_TakeStep :
    responded.phaseOf 0 = .done ⟨.ok, .sample 564⟩ ∧ ∀ r, transferring.phaseOf 0 ≠ .done r := ⟨rfl, nofun⟩

/-- An enable that succeeds, one that fails, and one with no answer listed. -/
theorem witness_AttachStep :
    (doing detached [.attach ⟨1, 2⟩]).life = .detached ∧ detached.enableAnswers = [] ∧
    ({ detached with enableAnswers := [.ok] }).life = .detached ∧
    ({ detached with enableAnswers := [.err regulatorCode] }).life = .detached ∧
    regulatorCode < 2 ^ detached.params.rerrWidth := ⟨rfl, rfl, rfl, rfl, by decide⟩
theorem witness_DetachStep :
    (idle.life = .attached ∧ idle.lock = none ∧ ∀ c, idle.phaseOf c = .idle) ∧
    responded.life = .attached ∧ ∃ c, responded.phaseOf c ≠ .idle := ⟨⟨rfl, rfl, fun _ => rfl⟩, rfl, 0, nofun⟩
theorem witness_NothingSurvivesDetach :
    let s := { doing idle [.detach, .attach ⟨1, 2⟩] with tx := [(0, 1), (1, 0xB0), (2, 0)], enableAnswers := [.ok] }
    s.life = .attached ∧ s.lock = none ∧ ∀ c, s.phaseOf c = .idle := ⟨rfl, rfl, fun _ => rfl⟩
theorem witness_DetachedRefusesEveryRequest :
    detached.life = .detached ∧ isRequest (.readScale (.se 0)) = true ∧
    (issuing 0xC0000000 detached).life = .detached := ⟨rfl, rfl, rfl⟩

theorem witness_StepRunsTheDecodedInstruction :
    (ReadyFor (issuing 0x80030000 idle) 0 ∧ decodeReq 0x80030000 = .ok (.readRaw (.se 3))) ∧
    ((doing transferring [.complete 0]).phaseOf 0 = .inXfer 0xB0 ∧ transferring.xfer = some ⟨0x01, 0xB0, 0xA5⟩ ∧
      decodeCmd ⟨0x01, 0xB0, 0xA5⟩ = .ok (.sampleSE3 0xA5)) :=
  ⟨⟨⟨rfl, by decide, rfl⟩, by decide⟩, rfl, rfl, by decide⟩
theorem witness_BusyCallerIssuesNothing :
    (issuing 0x80030000 responded).life = .attached ∧ responded.phaseOf 0 ≠ .idle := ⟨rfl, nofun⟩
/-- Each listed refusal happens. -/
theorem witness_RefusedExactlyAsListed :
    step (issuing 0x80030000 detached) = .refused .notAttached ∧ step (issuing 0xC0000000 idle) = .refused .reservedOp ∧
    step (issuing 0x80030001 idle) = .refused .reservedBitSet ∧ step (issuing 0x80030100 idle) = .refused .pairWithoutHp ∧
    step (issuing 0x40000801 idle) = .refused .lineOutOfContract ∧ step (doing responded [.detach]) = .refused .detachBusy :=
  ⟨rfl, rfl, rfl, rfl, rfl, rfl⟩

theorem witness_RequestFrame :
    isRequest (.readScale (.se 0)) = true ∧ isReadScale (.readScale (.se 0)) = true ∧
    isReadScale (.readRaw (.se 0)) = false ∧ (∃ t, exec (.readScale (.se 0)) idle = .next t) ∧
    ∃ t, exec (.readRaw (.se 0)) idle = .next t := ⟨rfl, rfl, rfl, ⟨_, rfl⟩, _, rfl⟩
/-- A wire command that completes a transfer, the wrong one during a transfer, and one with no transfer to complete. -/
theorem witness_WireCommandFrame :
    isRequest (.sampleSE3 0xA5) = false ∧
    (∃ t, exec (.sampleSE3 0xA5) { transferring with xferAnswers := [.err transportCode] } = .next t) ∧
    (encode (.sampleSE0 0xA5) = .cmd ⟨0x01, 0x80, 0xA5⟩ ∧ transferring.phaseOf transferring.who = .inXfer 0xB0 ∧
      transferring.xfer ≠ some ⟨0x01, 0x80, 0xA5⟩ ∧ ∃ t, exec (.sampleSE0 0xA5) transferring = .next t) ∧
    (∀ rid, idle.phaseOf idle.who ≠ .inXfer rid) ∧ ∃ t, exec (.sampleSE3 0xA5) idle = .next t :=
  ⟨rfl, ⟨_, rfl⟩, ⟨rfl, rfl, by decide, _, rfl⟩, nofun, _, rfl⟩
theorem witness_ParametersAndHandlesAreFixed :
    ∃ t, step (doing waiting [.acquire 0]) = .next t ∧ t.life = waiting.life := ⟨_, rfl, rfl⟩

theorem witness_EveryStepKeepsTheInvariant :
    Inv (doing waiting [.acquire 0]) ∧ ∃ t, step (doing waiting [.acquire 0]) = .next t :=
  ⟨inv_doing inv_waiting _, _, rfl⟩
/-- An acquire that sets the lock, and a completion that clears it. -/
theorem witness_LockChangesOnlyByItsTransaction :
    (Inv (doing waiting [.acquire 1]) ∧ ∃ t, step (doing waiting [.acquire 1]) = .next t ∧ t.lock ≠ waiting.lock) ∧
    ∃ s t, Inv s ∧ step s = .next t ∧ s.lock = some 0 ∧ t.lock = none :=
  ⟨⟨inv_doing inv_waiting _, _, rfl, nofun⟩,
    { doing transferring [.complete 0] with xferAnswers := [.err transportCode] }, _,
    inv_answered inv_transferring _ _, rfl, rfl, rfl⟩
/-- Another caller's step during a transfer. -/
theorem witness_TransactionIsAtomic :
    Inv (doing transferring [.acquire 1]) ∧ transferring.lock = some 0 ∧
    ∃ t, step (doing transferring [.acquire 1]) = .next t := ⟨inv_doing inv_transferring _, rfl, _, rfl⟩
theorem witness_BuffersChangeOnlyUnderTheLock :
    Inv (doing waiting [.acquire 0]) ∧ ∃ t, step (doing waiting [.acquire 0]) = .next t ∧
      t.life = waiting.life ∧ t.tx ≠ waiting.tx := ⟨inv_doing inv_waiting _, _, rfl, rfl, nofun⟩
theorem witness_PhasesMoveAlongTheirEdges :
    Inv (issuing 0x80030000 idle) ∧ ∃ t, step (issuing 0x80030000 idle) = .next t ∧ t.phaseOf 0 ≠ idle.phaseOf 0 :=
  ⟨inv_doing inv_idle _, _, rfl, nofun⟩
/-- The first clause and the second, at the first line outside the table. -/
theorem witness_InvalidChannelRaisedExactlyByReadRaw :
    ReadyFor (issuing 0x80080000 idle) 0 ∧ decodeReq 0x80080000 = .ok (.readRaw (.se 8)) ∧ Desc.se 8 ∉ channelTable ∧
    idle.phaseOf 0 ≠ .done ⟨.invalidChannel, .unit⟩ ∧
    phaseAfter (step (issuing 0x80080000 idle)) 0 = some (.done ⟨.invalidChannel, .unit⟩) :=
  ⟨⟨rfl, by decide, rfl⟩, by decide, by decide, nofun, rfl⟩
theorem witness_TransportErrorRaisedExactlyByTheTransport :
    Inv (doing transferring [.complete 0]) ∧ transferring.phaseOf 0 = .inXfer 0xB0 ∧
    transferring.phaseOf 0 ≠ .done ⟨.transportError, .transportCode transportCode⟩ ∧
    phaseAfter (step { doing transferring [.complete 0] with xferAnswers := [.err transportCode] }) 0 =
      some (.done ⟨.transportError, .transportCode transportCode⟩) :=
  ⟨inv_doing inv_transferring _, rfl, nofun, rfl⟩
/-- Caller 1 tries twice while caller 0's transfer hangs. -/
theorem witness_HungTransferHoldsTheLock :
    let s := doing transferring [.acquire 1, .acquire 1]
    Inv s ∧ s.phaseOf 0 = .inXfer 0xB0 ∧ 2 ≤ s.agenda.length ∧ (∀ e ∈ s.agenda.take 2, e ≠ .complete 0) ∧
      ∃ t, Sys2Proof.core.run 2 s = .next t :=
  ⟨inv_doing inv_transferring _, rfl, by decide, by decide, _, rfl⟩
/-- A run, and a step of each kind of move: an issue, a completion and a take. -/
theorem witness_RunsAreSerialRuns :
    (Inv (doing waiting [.acquire 1, .acquire 0]) ∧
      ∃ t, Sys2Proof.core.run 2 (doing waiting [.acquire 1, .acquire 0]) = .next t) ∧
    (Inv (issuing 0x80030000 idle) ∧ ReadyFor (issuing 0x80030000 idle) 0 ∧
      decodeReq 0x80030000 = .ok (.readRaw (.se 3)) ∧ ∃ t, step (issuing 0x80030000 idle) = .next t) ∧
    (Inv { doing transferring [.complete 0] with xferAnswers := [.err transportCode] } ∧
      transferring.phaseOf 0 = .inXfer 0xB0 ∧
      ∃ t, step { doing transferring [.complete 0] with xferAnswers := [.err transportCode] } = .next t) ∧
    (Inv (doing responded [.take 0]) ∧ responded.phaseOf 0 = .done ⟨.ok, .sample 564⟩ ∧ ∃ t, step (doing responded [.take 0]) = .next t) :=
  ⟨⟨inv_doing inv_waiting _, _, rfl⟩, ⟨inv_doing inv_idle _, ⟨rfl, by decide, rfl⟩, by decide, _, rfl⟩,
    ⟨inv_answered inv_transferring _ _, rfl, _, rfl⟩, inv_doing inv_responded _, rfl, _, rfl⟩
/-- The second of two waiters is served: the moves of the run, read off it by hand (P3 of 95_test_vectors.md). -/
theorem test_serialTrace :
    serialTrace 4 { doing waiting [.acquire 1, .complete 1, .acquire 0, .complete 0] with
      xferAnswers := [.ok ⟨0x00, 0x00, 0x10⟩, .ok ⟨0x00, 0x01, 0x01⟩] } =
    [.serve 1 0x60 (.ok ⟨0x00, 0x00, 0x10⟩), .serve 0 0xB0 (.ok ⟨0x00, 0x01, 0x01⟩)] := rfl
/-- An issue of the transfer, its completion, and another caller's step while it is outstanding. -/
theorem witness_TransferIssuedOnceByItsAcquire :
    (Inv (doing waiting [.acquire 0]) ∧ waiting.xfer = none ∧
      ∃ t, step (doing waiting [.acquire 0]) = .next t ∧ t.xfer = some ⟨0x01, 0xB0, 0xA5⟩) ∧
    (Inv { doing transferring [.complete 0] with xferAnswers := [.err transportCode] } ∧
      ∃ t, step { doing transferring [.complete 0] with xferAnswers := [.err transportCode] } = .next t ∧
        t.xfer = none ∧ t.xferAnswers = []) ∧
    (Inv (doing transferring [.acquire 1]) ∧ ∃ t, step (doing transferring [.acquire 1]) = .next t ∧
      t.xfer = some ⟨0x01, 0xB0, 0xA5⟩) :=
  ⟨⟨inv_doing inv_waiting _, rfl, _, rfl, rfl⟩, ⟨inv_answered inv_transferring _ _, _, rfl, rfl, rfl⟩,
    inv_doing inv_transferring _, _, rfl, rfl⟩
theorem witness_DevicesAreIndependent :
    (⟨idle, [doing waiting [.acquire 0]]⟩ : Instances).get? 1 = some (doing waiting [.acquire 0]) ∧
    ∃ d, stepDevice 1 ⟨idle, [doing waiting [.acquire 0]]⟩ = .next d := ⟨rfl, _, rfl⟩

/-! ### The textual syntax -/

/-- 30_encoding.md R89: a caller, a channel's name, and a decimal number. -/
theorem test_assemble :
    assembleEvent "c1: read_raw DIFF1_0" = some (.issue 1 0x98010000) ∧
    assembleEvent "register_id_for 0, diff" = some (.issue 0 0x40000000) ∧
    assembleEvent "read_raw se(256)" = none := by decide

end Sys2Proof.Tests
end

section
/-! PROOFS. The lock (10_state.md R23): what a step can do to it and to the transfer in flight, once for every event; then
O51, read off that. -/

namespace Sys2Proof.Machine

/-! ### The invariant and the draw of the next event -/

/-- The invariant does not read the environment's agenda. -/
theorem Inv.drawEvent {s : State} (h : Inv s) : Inv s.drawEvent.2 :=
  h.congr s.drawEvent_tx s.drawEvent_rx s.drawEvent_params s.drawEvent_phases s.drawEvent_life s.drawEvent_lock
    s.drawEvent_handles s.drawEvent_xfer s.drawEvent_attachError

/-- Callers whose transfers are in flight are one caller: the lock's holder (10_state.md R23). -/
theorem inXfer_unique {s : State} (h : ∀ c, s.lock = some c ↔ ∃ rid, s.phaseOf c = .inXfer rid) {c d : CallerId}
    {rid rid' : Byte} (hc : s.phaseOf c = .inXfer rid) (hd : s.phaseOf d = .inXfer rid') : c = d :=
  Option.some.inj (((h c).2 ⟨rid, hc⟩).symm.trans ((h d).2 ⟨rid', hd⟩))

/-! ### The moves of the lock -/

/-- A move of a caller between phases other than a transfer leaves every transfer in flight alone. -/
theorem State.setPhase_inXfer_iff {s : State} {c : CallerId} {p : Phase} (hs : ∀ rid, s.phaseOf c ≠ .inXfer rid)
    (hp : ∀ rid, p ≠ .inXfer rid) (d : CallerId) (rid : Byte) :
    (s.setPhase c p).phaseOf d = .inXfer rid ↔ s.phaseOf d = .inXfer rid := by
  by_cases hd : d = c
  · subst hd
    rw [State.phaseOf_setPhase_self]
    exact iff_of_false (hp rid) (hs rid)
  · rw [State.phaseOf_setPhase_of_ne _ hd]

/-- What the step of an event on a state can do to the lock and to the transfers in flight: keep both, take the free lock
for a caller that waited (40_codec.md R106), or free the lock of the caller whose transfer completes (R107). -/
inductive LockMove (u : State) : Event → State → Prop where
  | kept (e : Event) (t : State) : t.lock = u.lock →
      (∀ d rid, t.phaseOf d = .inXfer rid ↔ u.phaseOf d = .inXfer rid) → LockMove u e t
  | taken (c : CallerId) (rid : Byte) (t : State) : u.lock = none → u.phaseOf c = .waitLock rid → t.lock = some c →
      t.phaseOf c = .inXfer rid → (∀ d, d ≠ c → t.phaseOf d = u.phaseOf d) → LockMove u (.acquire c) t
  | freed (c : CallerId) (rid : Byte) (r : Response) (t : State) : u.lock = some c → u.phaseOf c = .inXfer rid →
      t.lock = none → t.phaseOf c = .done r → (∀ d, d ≠ c → t.phaseOf d = u.phaseOf d) → LockMove u (.complete c) t

/-- A caller's move between phases other than a transfer, on a state with the lock and the phases of `u`, keeps the lock. -/
theorem LockMove.setPhase {u v : State} {c : CallerId} {p : Phase} (e : Event) (hlock : v.lock = u.lock)
    (hphases : v.phases = u.phases) (hs : ∀ rid, u.phaseOf c ≠ .inXfer rid) (hp : ∀ rid, p ≠ .inXfer rid) :
    LockMove u e (v.setPhase c p) := by
  have hv : ∀ d, v.phaseOf d = u.phaseOf d := State.phaseOf_congr hphases
  refine .kept e _ (by rw [State.setPhase_lock, hlock]) fun d rid => ?_
  rw [State.setPhase_inXfer_iff (fun rid => by rw [hv]; exact hs rid) hp, hv]

/-- A ready caller's request keeps the lock (40_codec.md R100). -/
theorem requestEffect_lockMove {u t : State} {i : Instr} {c : CallerId} (e : Event) (hi : isRequest i = true)
    (hidle : u.phaseOf c = .idle) (h : requestEffect i { u with who := c } = .next t) : LockMove u e t := by
  have hs : ∀ rid, u.phaseOf c ≠ .inXfer rid := fun rid hx => Phase.noConfusion (hidle.symm.trans hx)
  rcases requestEffect_cases hi h with ⟨rid, rfl⟩ | ⟨r, _, rfl, _⟩ | ⟨_, rfl⟩
  · exact .setPhase e rfl rfl hs nofun
  · exact .setPhase e rfl rfl hs nofun
  · rw [State.respond, State.drawMv_who]
    exact .setPhase e (State.drawMv_lock _) (State.drawMv_phases _) hs nofun

/-- Every step that leads to a next state is a move of the lock. -/
theorem StepInto.lockMove {u t : State} {e : Event} (hu : Inv u) (h : StepInto u e t) : LockMove u e t := by
  cases h with
  | idle _ _ ht =>
    rcases ht with rfl | ⟨c, rfl⟩ <;> exact .kept e _ rfl fun _ _ => Iff.rfl
  | issue c w i _ hready _ hi ht => exact requestEffect_lockMove _ hi hready.2.2 ht
  | acquire c rid _ hwait hfree =>
    exact .taken c rid _ hfree hwait (State.setPhase_lock _ _ _) (State.phaseOf_setPhase_self _ _ _)
      fun d hd => State.phaseOf_setPhase_of_ne _ hd _
  | complete c rid cmd hx _ =>
    refine .freed c rid _ _ ((hu.ownerInXfer c).2 ⟨rid, hx⟩) hx (State.setPhase_lock _ _ _)
      (State.phaseOf_setPhase_self _ _ _) fun d hd => ?_
    rw [State.phaseOf_setPhase_of_ne _ hd]
    exact u.drawXfer_phaseOf d
  | take c r hdone => exact .setPhase _ rfl rfl (fun rid hx => Phase.noConfusion (hdone.symm.trans hx)) nofun
  | attachFails hd code _ _ =>
    exact .kept _ _ u.drawEnable_lock fun d rid => by rw [← u.drawEnable_phaseOf d]; exact Iff.rfl
  | attach hd hl _ =>
    obtain ⟨hlock, -, -, hphases, -, -⟩ := hu.detachedEmpty hl
    exact .kept _ _ hlock.symm fun d rid => by rw [State.phaseOf_congr (s := u) hphases.symm d]
  | detach _ hlock hidle =>
    exact .kept _ _ hlock.symm fun d rid => by rw [hidle d]; exact Iff.rfl

/-- Every move of the lock leaves its holder the caller with the transfer in flight. -/
theorem LockMove.ownerInXfer {u t : State} {e : Event} (h : LockMove u e t)
    (hu : ∀ c, u.lock = some c ↔ ∃ rid, u.phaseOf c = .inXfer rid) (d : CallerId) :
    t.lock = some d ↔ ∃ rid, t.phaseOf d = .inXfer rid := by
  cases h with
  | kept _ _ hlock hx => rw [hlock, hu d]; exact exists_congr fun rid => (hx d rid).symm
  | taken c rid _ hfree _ hlock hx hother =>
    by_cases hd : d = c
    · subst hd; exact iff_of_true hlock ⟨rid, hx⟩
    · rw [hother d hd, ← hu d, hlock, hfree]
      simp [Ne.symm hd]
  | freed c rid r _ hheld _ hlock hdone hother =>
    by_cases hd : d = c
    · subst hd; simp [hlock, hdone]
    · rw [hother d hd, ← hu d, hlock, hheld]
      simp [Ne.symm hd]

/-- A move that changes the lock is its taking by an acquire or its freeing by a completion. -/
theorem LockMove.of_lock_ne {u t : State} {e : Event} (h : LockMove u e t) (hne : t.lock ≠ u.lock) :
    (∃ c rid, e = .acquire c ∧ u.lock = none ∧ u.phaseOf c = .waitLock rid ∧ t.lock = some c) ∨
    (∃ c rid r, e = .complete c ∧ u.lock = some c ∧ u.phaseOf c = .inXfer rid ∧ t.lock = none ∧
      t.phaseOf c = .done r) := by
  cases h with
  | kept _ _ hlock _ => exact absurd hlock hne
  | taken c rid _ hfree hwait hlock _ _ => exact .inl ⟨c, rid, rfl, hfree, hwait, hlock⟩
  | freed c rid r _ hheld hx hlock hdone _ => exact .inr ⟨c, rid, r, rfl, hheld, hx, hlock, hdone⟩

/-- Settles O51: the step is a move of the lock on the state without its event, which has the same lock and phases. -/
theorem lockChangesOnlyByItsTransaction : Obligations.LockChangesOnlyByItsTransaction := by
  intro s t hs hstep
  have hmove : LockMove s.drawEvent.2 s.drawEvent.1 t := (step_into hstep).lockMove hs.drawEvent
  have howner : ∀ c, t.lock = some c ↔ ∃ rid, t.phaseOf c = .inXfer rid := hmove.ownerInXfer hs.drawEvent.ownerInXfer
  refine ⟨howner, fun c d rid rid' => inXfer_unique howner, fun hne => ?_⟩
  simpa only [State.drawEvent_lock, State.drawEvent_phaseOf] using
    hmove.of_lock_ne (by rwa [State.drawEvent_lock])

end Sys2Proof.Machine
end

section
/-! PROOFS. The reply's bytes (20_memory.md R52): the sample is byte 1's two low bits above byte 2, as one append of bit
vectors; then O11, read off that. -/

namespace Sys2Proof.Machine

/-- R79's mask and shift drop all of byte 1 but its two low bits, and put those above byte 2. -/
theorem decodeReply_eq_append (r : Bytes3) : decodeReply r = r.b1.extractLsb' 0 2 ++ r.b2 := by
  apply BitVec.eq_of_getLsbD_eq
  intro i hi
  rw [BitVec.getLsbD_append]
  by_cases hlow : i < 8
  · simp [decodeReply, hlow, hi]
  · have hhigh : i = 8 ∨ i = 9 := by omega
    rcases hhigh with rfl | rfl <;> simp [decodeReply]

/-- R79's formula on numbers. -/
theorem decodeReply_toNat (r : Bytes3) :
    (decodeReply r).toNat = ((r.b1.toNat &&& 0b00000011) <<< 8) ||| r.b2.toNat := by
  have hmask : r.b1.toNat &&& 0b00000011 = r.b1.toNat % 2 ^ 2 := Nat.and_two_pow_sub_one_eq_mod _ 2
  rw [decodeReply_eq_append, BitVec.toNat_append, BitVec.extractLsb'_toNat, Nat.shiftRight_zero, hmask]

/-- Settles O11: each part of the append is one of the statement's bit fields, and ten bits bound the sample. -/
theorem sampleBitsOfReply : Obligations.SampleBitsOfReply := by
  intro r
  refine ⟨decodeReply_toNat r, Nat.le_of_lt_succ (decodeReply r).isLt, ?_, ?_⟩
  · rw [decodeReply_eq_append, BitVec.extractLsb'_append_eq_left]
  · rw [decodeReply_eq_append, BitVec.extractLsb'_append_eq_right]

end Sys2Proof.Machine
end

section
/-! PROOFS. Which bits of a reply the decoder reads (30_encoding.md R78): O12, off the append that a sample is. -/

namespace Sys2Proof.Machine

/-- Two replies decode to one sample exactly when they agree on the bits the append takes (30_encoding.md R78). -/
theorem decodeReply_eq_iff (r r' : Bytes3) :
    decodeReply r = decodeReply r' ↔ r.b1.extractLsb' 0 2 = r'.b1.extractLsb' 0 2 ∧ r.b2 = r'.b2 := by
  constructor
  · intro h
    obtain ⟨-, -, hhigh, hlow⟩ := sampleBitsOfReply r
    obtain ⟨-, -, hhigh', hlow'⟩ := sampleBitsOfReply r'
    exact ⟨by rw [← hhigh, h, hhigh'], by rw [← hlow, h, hlow']⟩
  · rintro ⟨hhigh, hlow⟩
    rw [decodeReply_eq_append, decodeReply_eq_append, hhigh, hlow]

/-- Settles O12: the append puts byte 1's two low bits above the eight of byte 2, and nothing else of the reply is in it. -/
theorem decoderIgnoresExactly : Obligations.DecoderIgnoresExactly := by
  intro r r'
  refine ⟨fun k => ?_, fun k => ?_, decodeReply_eq_iff r r'⟩
  · rw [decodeReply_eq_append, BitVec.getLsbD_append, if_neg (by omega), Nat.add_sub_cancel_left,
      BitVec.getLsbD_extractLsb', Nat.zero_add, decide_eq_true k.isLt, Bool.true_and]
  · rw [decodeReply_eq_append, BitVec.getLsbD_append, if_pos k.isLt]

end Sys2Proof.Machine
end

section
/-! PROOFS. The register id (30_encoding.md R74, R77): what each bit of R75's formula is; then O10, read off that for the
descriptors of the table. -/

namespace Sys2Proof.Machine

/-- R75's two shifts, bit by bit: the mode at bit 7, and the line from bit 4 up. -/
theorem assembleRid_getLsbD (line : Byte) (se : Bool) {i : Nat} (hi : i < 8) :
    (assembleRid line se).getLsbD i = ((decide (i = 7) && se) || (!decide (i < 4) && line.getLsbD (i - 4))) := by
  rw [assembleRid, BitVec.getLsbD_or, BitVec.getLsbD_shiftLeft, BitVec.getLsbD_shiftLeft]
  by_cases hmode : i = 7
  · subst hmode
    cases se <;> simp
  · have hbelow : i < 7 := by omega
    simp only [hi, hmode, hbelow, decide_true, decide_false, Bool.true_and, Bool.not_true, Bool.false_and]

/-- A line of the contract has nothing at the mode's bit, so that bit is 1 exactly for single-ended (R77). -/
theorem assembleRid_mode {line : Byte} (h : line.toNat ≤ 7) (se : Bool) : (assembleRid line se).getLsbD 7 = se := by
  have hbit3 : line.getLsbD 3 = false := Nat.testBit_lt_two_pow (by omega)
  rw [assembleRid_getLsbD line se (by decide), hbit3]
  simp

/-- The line field is the line's three low bits, whatever the mode (R74). -/
theorem assembleRid_line (line : Byte) (se : Bool) : (assembleRid line se).extractLsb' 4 3 = line.setWidth 3 := by
  apply BitVec.eq_of_getLsbD_eq
  intro i hi
  have hmode : 4 + i ≠ 7 := by omega
  rw [BitVec.getLsbD_extractLsb', assembleRid_getLsbD _ _ (by omega)]
  simp [hi, hmode]

/-- Neither shift reaches below bit 4 (R74). -/
theorem assembleRid_low (line : Byte) (se : Bool) : (assembleRid line se).extractLsb' 0 4 = 0 := by
  apply BitVec.eq_of_getLsbD_eq
  intro i hi
  have hmode : i ≠ 7 := by omega
  rw [BitVec.getLsbD_extractLsb', assembleRid_getLsbD _ _ (by omega)]
  simp [hmode, hi]

/-- The first conjunct of the mapper's formula (41_channel_mapper.md R131). -/
theorem primary_le_of_validDesc {d : Desc} (h : validDesc d = true) : d.primary.toNat ≤ 7 :=
  of_decide_eq_true (Bool.and_elim_left h)

/-- A valid descriptor's id is R75's for its primary line and its mode (41_channel_mapper.md R132). -/
theorem ridOf_of_validDesc {d : Desc} (h : validDesc d = true) :
    ridOf d = some (assembleRid d.primary (!d.diff)) := by
  rw [ridOf, if_pos h, mapOperands, registerIdFor, if_neg (Nat.not_lt.2 (primary_le_of_validDesc h))]

/-- Every descriptor of the table passes the mapper's formula (41_channel_mapper.md R131). -/
theorem validDesc_of_mem_channelTable : ∀ d ∈ channelTable, validDesc d = true := by decide

/-- Settles O10: a table descriptor's id is R75's at a line of the contract, whose three fields are those of the layout. -/
theorem registerIdLayout : Obligations.RegisterIdLayout := by
  intro d hd
  have hvalid : validDesc d = true := validDesc_of_mem_channelTable d hd
  exact ⟨_, ridOf_of_validDesc hvalid, assembleRid_mode (primary_le_of_validDesc hvalid) _, assembleRid_line _ _,
    assembleRid_low _ _⟩

end Sys2Proof.Machine
end

section
/-! PROOFS. DECODE_REPLY (40_codec.md R102): its word is the packing of 30_encoding.md R84 with no reserved bit set, and a
ready caller's request is its effect; then O19. -/

namespace Sys2Proof.Machine

open Sys2Proof.Laws (packReq_getLsbD TableRow.decodeReply)

/-- With the descriptor's flags 0, a request word is its operation and its three bytes, each shifted to its place
(30_encoding.md R84, R86). -/
theorem packReq_eq_or (op : BitVec 3) (x y z : Byte) :
    packReq op false false x y z =
      op.setWidth 32 <<< 29 ||| x.setWidth 32 <<< 16 ||| y.setWidth 32 <<< 8 ||| z.setWidth 32 := by
  apply BitVec.eq_of_getLsbD_eq
  intro i hi
  rw [packReq_getLsbD]
  interval_cases i <;> simp

/-- The reserved bits of DECODE_REPLY lie inside its row's mask, where its word has only the operation. -/
theorem reservedBitIsSet_packReq_decodeReply (r0 r1 r2 : Byte) :
    reservedBitIsSet (packReq 1 false false r0 r1 r2) = false := by
  have hrow : packReq 1 false false r0 r1 r2 &&& 0xFF000000 = 0x20000000 := (TableRow.decodeReply r0 r1 r2).2
  have hreserved : packReq 1 false false r0 r1 r2 &&& 0x1F000000 = 0 := by
    calc packReq 1 false false r0 r1 r2 &&& 0x1F000000
        = (packReq 1 false false r0 r1 r2 &&& 0xFF000000) &&& 0x1F000000 := by rw [BitVec.and_assoc]; rfl
      _ = 0 := by rw [hrow]; rfl
  rw [reservedBitIsSet, packReq_op]
  exact bne_eq_false_iff_eq.2 hreserved

/-- The packed word of DECODE_REPLY decodes to it (30_encoding.md R85, R86). -/
theorem decodeReq_packReq_decodeReply (r0 r1 r2 : Byte) :
    decodeReq (packReq 1 false false r0 r1 r2) = .ok (.decodeReply r0 r1 r2) := by
  rw [decodeReq, reservedBitIsSet_packReq_decodeReply, if_neg Bool.false_ne_true, packReq_op, packReq_byte2,
    packReq_byte1, packReq_byte0]
  rfl

/-- A request of a ready caller is its effect: both gates are open (60_exceptions.md R197). -/
theorem exec_request_of_ready {i : Instr} {s : State} (hi : isRequest i = true) (h : Ready s) :
    exec i s = requestEffect i s := by
  rw [exec_request hi, issueGate_of_ready h]

/-- Settles O19: the word is the packed one, and the request's effect is the response with the sample of O11's formula. -/
theorem decodeReplyCompletes : Obligations.DecodeReplyCompletes := by
  intro r0 r1 r2
  constructor
  · have hword : packReq 1 false false r0 r1 r2 =
        0x20000000 ||| r0.setWidth 32 <<< 16 ||| r1.setWidth 32 <<< 8 ||| r2.setWidth 32 := packReq_eq_or 1 r0 r1 r2
    rw [← hword, decodeReq_packReq_decodeReply]
  · intro s hs
    exact ⟨decodeReply ⟨r0, r1, r2⟩, decodeReply_toNat ⟨r0, r1, r2⟩, exec_request_of_ready rfl hs⟩

end Sys2Proof.Machine
end

section
/-! PROOFS. Raising a response (60_exceptions.md R182): which step gives a caller a response it did not have, and which
response that is, once for every event. -/

namespace Sys2Proof.Machine

/-- Setting one phase, on a state with the phases of `u`, gives a caller a response it did not have only where that
response is the phase set and the caller is the one it is set for. -/
theorem State.setPhase_raises {u v : State} {c d : CallerId} {p : Phase} {r : Response} (hnew : u.phaseOf c ≠ .done r)
    (ht : (v.setPhase d p).phaseOf c = .done r) (hphases : v.phases = u.phases) : c = d ∧ p = .done r := by
  by_cases hc : c = d
  · subst hc
    exact ⟨rfl, by rwa [State.phaseOf_setPhase_self] at ht⟩
  · rw [State.phaseOf_setPhase_of_ne _ hc, State.phaseOf_congr hphases] at ht
    exact absurd ht hnew

/-- The event of a step on the state `u` can raise the response `r` for caller `c`: the caller's issue of a request, which
raises the request's result, the regulator's error for a READ_SCALE or INVALID_CHANNEL for a READ_RAW whose descriptor has
no register id; or the completion of the caller's transfer, which raises the response to the transport's answer. -/
inductive Raises (u : State) (c : CallerId) (r : Response) : Event → Prop where
  | result (w : ReqWord) : r.status = .ok → Raises u c r (.issue c w)
  | unavailable (w : ReqWord) (code : RegulatorCode) : r = .regulatorUnavailable code → Raises u c r (.issue c w)
  | invalid (w : ReqWord) (d : Desc) : decodeReq w = .ok (.readRaw d) → ridOf d = none → r = .invalidChannel →
      Raises u c r (.issue c w)
  | transferred (rid : Byte) : u.phaseOf c = .inXfer rid → r = transactionResponse u.drawXfer.1 →
      Raises u c r (.complete c)

/-- A READ_SCALE raises the response to the regulator's answer (42_voltage_scaler.md R161). -/
theorem Raises.of_scaleResponse (u : State) (c : CallerId) (w : ReqWord) (a : MvAnswer) :
    Raises u c (scaleResponse a) (.issue c w) := by
  cases a with
  | ok mv => exact .result w rfl
  | err code => exact .unavailable w code rfl

/-- An issue that answers its own caller raises that answer, if it raises anything. -/
theorem Raises.of_respond {u v : State} {c d : CallerId} {w : ReqWord} {r r' : Response} (hnew : u.phaseOf c ≠ .done r)
    (ht : (v.respond r').phaseOf c = .done r) (hphases : v.phases = u.phases) (hwho : v.who = d)
    (hr : Raises u d r' (.issue d w)) : Raises u c r (.issue d w) := by
  obtain ⟨rfl, hdone⟩ := State.setPhase_raises hnew ht hphases
  cases hdone
  rwa [hwho]

/-- What a ready caller's request can raise, request by request. -/
theorem requestEffect_raises {u t : State} {c d : CallerId} {w : ReqWord} {i : Instr} {r : Response}
    (hw : decodeReq w = .ok i) (h : requestEffect i { u with who := d } = .next t) (hnew : u.phaseOf c ≠ .done r)
    (ht : t.phaseOf c = .done r) : Raises u c r (.issue d w) := by
  have hi : isRequest i = true := isRequest_of_decodeReq hw
  cases i with
  | encodeCommand rid => cases h; exact .of_respond hnew ht rfl rfl (.result w rfl)
  | decodeReply r0 r1 r2 => cases h; exact .of_respond hnew ht rfl rfl (.result w rfl)
  | registerIdFor line se =>
    simp only [requestEffect] at h
    split at h
    · cases h; exact .of_respond hnew ht rfl rfl (.result w rfl)
    · cases h
  | performTransaction rid => cases h; cases (State.setPhase_raises hnew ht rfl).2
  | readRaw desc =>
    simp only [requestEffect] at h
    split at h
    next hrid => cases h; exact .of_respond hnew ht rfl rfl (.invalid w desc hw hrid rfl)
    next => cases h; cases (State.setPhase_raises hnew ht rfl).2
  | readScale desc =>
    cases h
    exact .of_respond hnew ht (State.drawMv_phases _) (State.drawMv_who _) (.of_scaleResponse u d w _)
  | _ => simp [isRequest] at hi

/-- Every step that gives a caller a response it did not have raises it. -/
theorem StepInto.raises {u t : State} {e : Event} {c : CallerId} {r : Response} (h : StepInto u e t)
    (hnew : u.phaseOf c ≠ .done r) (ht : t.phaseOf c = .done r) : Raises u c r e := by
  cases h with
  | idle _ _ hsame => rcases hsame with rfl | ⟨_, rfl⟩ <;> exact absurd ht hnew
  | issue _ w i _ _ hw _ heffect => exact requestEffect_raises hw heffect hnew ht
  | acquire _ rid _ _ _ => cases (State.setPhase_raises hnew ht rfl).2
  | complete _ rid _ hx _ =>
    obtain ⟨rfl, hr⟩ := State.setPhase_raises hnew ht u.drawXfer_phases
    exact .transferred rid hx (Phase.done.inj hr).symm
  | take _ _ _ => cases (State.setPhase_raises hnew ht rfl).2
  | attachFails _ _ _ _ => exact absurd ((u.drawEnable_phaseOf c).symm.trans ht) hnew
  | attach _ _ _ => cases ht
  | detach _ _ _ => cases ht

end Sys2Proof.Machine
end

section
/-! PROOFS. INVALID_CHANNEL (60_exceptions.md R184): a descriptor has no register id exactly outside the channel table;
then O55, both directions off what an issue of READ_RAW raises. -/

namespace Sys2Proof.Machine

/-- At every line of the contract, the single-ended and the differential descriptor stand in the table (10_state.md R32). -/
theorem mem_channelTable_of_line : ∀ p : Byte, p.toNat ≤ 7 → .se p ∈ channelTable ∧ .df p (p ^^^ 1) ∈ channelTable := by
  decide

/-- The mapper's formula admits the table's descriptors only (41_channel_mapper.md R131). -/
theorem mem_channelTable_of_validDesc {d : Desc} (h : validDesc d = true) : d ∈ channelTable := by
  obtain ⟨hse, hdf⟩ := mem_channelTable_of_line d.primary (primary_le_of_validDesc h)
  obtain ⟨diff, p, q⟩ := d
  have hpair := Bool.and_elim_right h
  cases diff with
  | false =>
    obtain rfl : q = none := by simpa using hpair
    exact hse
  | true =>
    obtain rfl : q = some (p ^^^ 1) := by simpa using hpair
    exact hdf

/-- A descriptor has no register id exactly where it is no table entry (41_channel_mapper.md R131, R134). -/
theorem ridOf_eq_none_iff {d : Desc} : ridOf d = none ↔ d ∉ channelTable := by
  constructor
  · intro hnone hmem
    rw [ridOf_of_validDesc (validDesc_of_mem_channelTable d hmem)] at hnone
    cases hnone
  · intro hmem
    rw [ridOf, if_neg (mt mem_channelTable_of_validDesc hmem)]

/-- An issue that raises INVALID_CHANNEL is one of READ_RAW with a descriptor outside the table, and nothing else raises
it. -/
theorem Raises.of_invalidChannel {u : State} {c : CallerId} {v : Value} {e : Event}
    (h : Raises u c ⟨.invalidChannel, v⟩ e) :
    ∃ w d, e = .issue c w ∧ decodeReq w = .ok (.readRaw d) ∧ d ∉ channelTable ∧ v = .unit := by
  cases h with
  | result w hok => cases hok
  | unavailable w code hr => cases hr
  | invalid w d hw hrid hr => exact ⟨w, d, rfl, hw, ridOf_eq_none_iff.1 hrid, (Response.mk.inj hr).2⟩
  | transferred rid _ hr => cases ha : u.drawXfer.1 <;> rw [ha] at hr <;> cases hr

/-- The step of an issued request of a ready caller is the request's effect (60_exceptions.md R197). -/
theorem step_of_drawEvent_issue {s : State} {c : CallerId} {w : ReqWord} {i : Instr} (he : s.drawEvent.1 = .issue c w)
    (hready : ReadyFor s c) (hw : decodeReq w = .ok i) :
    step s = requestEffect i { s.drawEvent.2 with who := c } := by
  obtain ⟨hlife, hc, hidle⟩ := hready
  have hready : Ready { s.drawEvent.2 with who := c } :=
    ⟨s.drawEvent_life.trans hlife, hc.trans_eq s.drawEvent_nCallers.symm, (s.drawEvent_phaseOf c).trans hidle⟩
  rw [step_eq_runEvent, he]
  exact issueRequest_of_ok hready hw

/-- Settles O55: the step raises the response on the state without its event, and there only READ_RAW raises
INVALID_CHANNEL; the other way, its effect on a descriptor without a register id is that response. -/
theorem invalidChannelRaisedExactlyByReadRaw : Obligations.InvalidChannelRaisedExactlyByReadRaw := by
  constructor
  · intro s t c v hstep hnew ht
    rw [← s.drawEvent_phaseOf c] at hnew
    exact ((step_into hstep).raises hnew ht).of_invalidChannel
  · intro s c w d he hready hw hmem
    refine ⟨State.respond { s.drawEvent.2 with who := c } .invalidChannel, ?_, State.respond_phaseOf_self _ _⟩
    rw [step_of_drawEvent_issue he hready hw]
    simp only [requestEffect, ridOf_eq_none_iff.2 hmem]

end Sys2Proof.Machine
end

section
/-! PROOFS. TRANSPORT_ERROR (60_exceptions.md R183): it is the response to exactly an error of the transport, with its
code; then O56, off what the completion of a transfer raises. -/

namespace Sys2Proof.Machine

/-- A transaction ends in TRANSPORT_ERROR exactly where the transport errs, and the payload is the code (40_codec.md
R107). -/
theorem transactionResponse_transportError_iff {a : XferAnswer} {v : Value} :
    transactionResponse a = ⟨.transportError, v⟩ ↔ ∃ code, a = .err code ∧ v = .transportCode code := by
  cases a with
  | ok reply => exact iff_of_false nofun nofun
  | err code =>
    constructor
    · intro h
      exact ⟨code, rfl, (Response.mk.inj h).2.symm⟩
    · rintro ⟨_, ⟨⟩, rfl⟩
      rfl

/-- The completion of a transfer that the transport answers with an error raises TRANSPORT_ERROR, and nothing else raises
it. -/
theorem Raises.of_transportError {u : State} {c : CallerId} {v : Value} {e : Event}
    (h : Raises u c ⟨.transportError, v⟩ e) :
    ∃ rid code, e = .complete c ∧ u.phaseOf c = .inXfer rid ∧ u.drawXfer.1 = .err code ∧ v = .transportCode code := by
  cases h with
  | result w hok => cases hok
  | unavailable w code hr => cases hr
  | invalid w d _ _ hr => cases hr
  | transferred rid hx hr =>
    obtain ⟨code, ha, hv⟩ := transactionResponse_transportError_iff.1 hr.symm
    exact ⟨rid, code, rfl, hx, ha, hv⟩

/-- The completion step of a caller in its transfer ends in the response to the answer drawn (40_codec.md R107). -/
theorem step_of_drawEvent_complete {s : State} {c : CallerId} {rid : Byte} (hs : Inv s)
    (he : s.drawEvent.1 = .complete c) (hx : s.phaseOf c = .inXfer rid) :
    ∃ t, step s = .next t ∧ t.phaseOf c = .done (transactionResponse s.drawEvent.2.drawXfer.1) := by
  have hx : s.drawEvent.2.phaseOf c = .inXfer rid := (s.drawEvent_phaseOf c).trans hx
  obtain ⟨hwire, -⟩ := hs.drawEvent.wireCommand c rid hx
  have hrun : step s = completeTransfer { s.drawEvent.2 with who := c } := by
    rw [step_eq_runEvent, he]
    exact completeExchange_of_outstanding hx hwire
  rw [hrun, completeTransfer_eq, State.drawXfer_who_eq]
  exact ⟨_, rfl, State.phaseOf_setPhase_self _ _ _⟩

/-- Settles O56: the step raises the response on the state without its event, and there only a completion raises
TRANSPORT_ERROR; the other way, the completion ends in the response to the answer drawn. -/
theorem transportErrorRaisedExactlyByTheTransport : Obligations.TransportErrorRaisedExactlyByTheTransport := by
  constructor
  · intro s t c v hstep hnew ht
    rw [← s.drawEvent_phaseOf c] at hnew
    simpa only [State.drawEvent_phaseOf] using ((step_into hstep).raises hnew ht).of_transportError
  · intro s c rid hs he hx
    obtain ⟨t, hstep, ht⟩ := step_of_drawEvent_complete hs he hx
    refine ⟨t, hstep, fun code => ?_⟩
    rw [ht, Phase.done.injEq, transactionResponse_transportError_iff]
    simp

end Sys2Proof.Machine
end

section
/-! PROOFS. The invariant of a device: each event keeps it, so every step does, and every run; then O49 and O50. -/

namespace Sys2Proof.Machine

/-- The invariant does not read which caller's step it is. -/
theorem Inv.who {u : State} (h : Inv u) (c : CallerId) : Inv { u with who := c } :=
  h.congr rfl rfl rfl rfl rfl rfl rfl rfl rfl

/-! ### The events that do more than move one phase -/

/-- The acquire step keeps the invariant: its caller becomes the owner, with its command on the wire and in `tx`
(40_codec.md R106). -/
theorem Inv.acquire {u : State} (h : Inv u) {c : CallerId} {rid : Byte} (hlife : u.life = .attached)
    (hwait : u.phaseOf c = .waitLock rid) (hfree : u.lock = none) :
    Inv (({ u with
      who := c
      lock := some c
      tx := memWrite3 u.tx (encodeCommand u.params.fillerByte rid)
      xfer := some (encodeCommand u.params.fillerByte rid) }).setPhase c (.inXfer rid)) := by
  have hc : c < u.nCallers := PhaseMap.lt_of_not_idle h.phasesForm (by rw [hwait]; nofun)
  have hmove := (StepInto.acquire c rid hlife hwait hfree).lockMove h
  constructor
  · simpa using Memory.wf_memWrite3 h.txForm _
  · simpa using h.rxForm
  · rw [State.setPhase_nCallers]
    exact PhaseMap.wf_setPhase (by exact h.phasesForm) (by exact hc) _
  · simp [hlife]
  · simpa using h.attachedBound
  · exact hmove.ownerInXfer h.ownerInXfer
  · intro d rid' hd
    by_cases hdc : d = c
    · subst hdc
      rw [State.phaseOf_setPhase_self] at hd
      cases hd
      simp
    · rw [State.phaseOf_setPhase_of_ne _ hdc] at hd
      have hheld : u.lock = some d := (h.ownerInXfer d).2 ⟨rid', hd⟩
      exact nomatch hheld.symm.trans hfree
  · simp
  · exact .inr ⟨rid, by simp⟩
  · simpa using h.rxWhole
  · intro d r hd
    by_cases hdc : d = c
    · subst hdc
      rw [State.phaseOf_setPhase_self] at hd
      cases hd
    · rw [State.phaseOf_setPhase_of_ne _ hdc] at hd
      simpa using h.responsesFit d r hd
  · simpa using h.attachErrorFits

/-- A reply buffer that a completion leaves is canonical. -/
theorem Memory.wf_rxOf {m : Memory} (h : Memory.wf m = true) (a : XferAnswer) : Memory.wf (rxOf m a) = true := by
  cases a with
  | ok reply => exact Memory.wf_memWrite3 h reply
  | err code => rfl

/-- A reply buffer that a completion leaves is unwritten or holds a whole reply (10_state.md R25). -/
theorem rxOf_whole (m : Memory) (a : XferAnswer) : rxOf m a = [] ∨ ∃ reply, memRead3 .rx (rxOf m a) = .ok reply := by
  cases a with
  | ok reply => exact .inr ⟨reply, memRead3_memWrite3 _ _ _⟩
  | err code => exact .inl rfl

/-- The completion step keeps the invariant: nobody is in a transfer after it, and its response has the drawn answer's
width (40_codec.md R107). -/
theorem Inv.complete {u : State} (h : Inv u) {c : CallerId} {rid : Byte} {cmd : Bytes3}
    (hx : u.phaseOf c = .inXfer rid) (hwire : u.xfer = some cmd) :
    Inv (({ u.drawXfer.2 with
      who := c
      rx := rxOf u.rx u.drawXfer.1
      lock := none
      xfer := none }).setPhase c (.done (transactionResponse u.drawXfer.1))) := by
  have hc : c < u.nCallers := PhaseMap.lt_of_not_idle h.phasesForm (by rw [hx]; nofun)
  have hmove := (StepInto.complete c rid cmd hx hwire).lockMove h
  have hother : ∀ d, d ≠ c → ∀ p, (State.setPhase { u.drawXfer.2 with
      who := c, rx := rxOf u.rx u.drawXfer.1, lock := none, xfer := none } c p).phaseOf d = u.phaseOf d := by
    intro d hd p
    rw [State.phaseOf_setPhase_of_ne _ hd]
    exact u.drawXfer_phaseOf d
  constructor
  · simpa using h.txForm
  · simpa using Memory.wf_rxOf h.rxForm _
  · rw [State.setPhase_nCallers]
    refine PhaseMap.wf_setPhase ?_ (by exact hc.trans_eq u.drawXfer_nCallers.symm) _
    simpa [State.nCallers] using h.phasesForm
  · intro hl
    have hlife : u.life = .detached := by simpa using hl
    obtain ⟨hfree, -⟩ := h.detachedEmpty hlife
    exact nomatch ((h.ownerInXfer c).2 ⟨rid, hx⟩).symm.trans hfree
  · simpa using h.attachedBound
  · exact hmove.ownerInXfer h.ownerInXfer
  · intro d rid' hd
    have hown := (hmove.ownerInXfer h.ownerInXfer d).2 ⟨rid', hd⟩
    simp at hown
  · simp
  · simpa using h.txWhole
  · simpa using rxOf_whole u.rx u.drawXfer.1
  · intro d r hd
    by_cases hdc : d = c
    · subst hdc
      rw [State.phaseOf_setPhase_self] at hd
      cases hd
      simpa using transactionResponse_fits u.drawXfer_fits
    · rw [hother d hdc] at hd
      simpa using h.responsesFit d r hd
  · simpa using h.attachErrorFits

/-- A failed attach keeps the invariant: the device stays empty, and the code drawn has its width
(70_reset_and_hazards.md R221). -/
theorem Inv.attachFails {u : State} (h : Inv u) {code : RegulatorCode} (hlife : u.life = .detached)
    (herr : u.drawEnable.1 = .err code) : Inv { u.drawEnable.2 with attachError := some code } := by
  have hu : Inv u.drawEnable.2 := h.congr u.drawEnable_tx u.drawEnable_rx u.drawEnable_params u.drawEnable_phases
    u.drawEnable_life u.drawEnable_lock u.drawEnable_handles u.drawEnable_xfer u.drawEnable_attachError
  have hlife' : u.drawEnable.2.life ≠ .attached := by rw [u.drawEnable_life, hlife]; nofun
  exact { hu with
    attachedBound := fun hl => absurd hl hlife'
    attachErrorFits := fun code' hc => by
      cases hc
      exact (State.drawEnable_lt herr).trans_eq (by rw [u.drawEnable_params]) }

/-- A device with nothing outstanding, written anew by attach or detach, has the invariant (10_state.md R45). -/
theorem Inv.of_empty {s : State} (hlock : s.lock = none) (htx : s.tx = []) (hrx : s.rx = []) (hphases : s.phases = [])
    (hxfer : s.xfer = none) (herror : s.attachError = none) (hbound : s.life = .attached → s.handles.isSome = true)
    (hunbound : s.life = .detached → s.handles = none) : Inv s := by
  have hidle : ∀ c, s.phaseOf c = .idle := fun c => by rw [State.phaseOf, hphases]; rfl
  constructor
  · rw [htx]; rfl
  · rw [hrx]; rfl
  · rw [hphases]; rfl
  · exact fun hl => ⟨hlock, htx, hrx, hphases, hunbound hl, hxfer⟩
  · exact fun hl => ⟨hbound hl, herror⟩
  · simp [hlock, hidle]
  · simp [hidle]
  · exact fun _ => hxfer
  · exact .inl htx
  · exact .inl hrx
  · simp [hidle]
  · simp [herror]

/-! ### Every event -/

/-- A ready caller's request keeps the invariant: it moves that caller to waiting or to a response of the parameters'
widths. -/
theorem Inv.requestEffect {u t : State} (h : Inv u) {i : Instr} (hready : Ready u) (hi : isRequest i = true)
    (ht : requestEffect i u = .next t) : Inv t := by
  obtain ⟨hlife, hc, hidle⟩ := hready
  have hnot : ∀ rid, u.phaseOf u.who ≠ .inXfer rid := by rw [hidle]; nofun
  rcases requestEffect_cases hi ht with ⟨rid, rfl⟩ | ⟨r, hfit, rfl, -⟩ | ⟨-, rfl⟩
  · exact h.setPhase hc hlife hnot nofun nofun
  · exact h.setPhase hc hlife hnot nofun fun _ hr => by cases hr; exact hfit
  · have hu : Inv u.drawMv.2 := h.congr u.drawMv_tx u.drawMv_rx u.drawMv_params u.drawMv_phases u.drawMv_life
      u.drawMv_lock u.drawMv_handles u.drawMv_xfer u.drawMv_attachError
    refine hu.setPhase (by simpa using hc) (by simpa using hlife) (by simpa using hnot) nofun fun _ hr => ?_
    cases hr
    rw [u.drawMv_params]
    exact scaleResponse_fits u.drawMv_fits

/-- Every event that leads to a next state keeps the invariant. -/
theorem StepInto.inv {u t : State} {e : Event} (hu : Inv u) (h : StepInto u e t) : Inv t := by
  cases h with
  | idle _ _ ht =>
    rcases ht with rfl | ⟨c, rfl⟩
    · exact hu
    · exact hu.who c
  | issue c w i _ hready _ hi ht => exact (hu.who c).requestEffect hready hi ht
  | acquire c rid hlife hwait hfree => exact hu.acquire hlife hwait hfree
  | complete c rid cmd hx hwire => exact hu.complete hx hwire
  | take c r hdone =>
    have hlife : u.life = .attached := by
      cases hl : u.life with
      | attached => rfl
      | detached =>
        obtain ⟨-, -, -, hphases, -, -⟩ := hu.detachedEmpty hl
        rw [State.phaseOf, hphases] at hdone
        cases hdone
    have hc : c < u.nCallers := PhaseMap.lt_of_not_idle hu.phasesForm (by rw [hdone]; nofun)
    exact (hu.who c).setPhase hc hlife (fun rid hx => Phase.noConfusion (hdone.symm.trans hx)) nofun nofun
  | attachFails hd code hlife herr => exact hu.attachFails hlife herr
  | attach hd _ _ => exact .of_empty rfl rfl rfl rfl rfl rfl (fun _ => rfl) nofun
  | detach _ _ _ => exact .of_empty rfl rfl rfl rfl rfl rfl nofun (fun _ => rfl)

/-- Settles O50: the event of the step is taken on the state without it, which has the invariant too. -/
theorem everyStepKeepsTheInvariant : Obligations.EveryStepKeepsTheInvariant :=
  fun _ _ hs hstep => (step_into hstep).inv hs.drawEvent

/-- Settles O49: after reset nothing is outstanding. -/
theorem resetHasTheInvariant : Obligations.ResetHasTheInvariant :=
  .of_empty rfl rfl rfl rfl rfl rfl (fun _ => rfl) nofun

end Sys2Proof.Machine
end

section
/-! PROOFS. What the issue step of a request leaves alone (40_codec.md R100, 42_voltage_scaler.md R161), once for all six;
then O46. -/

namespace Sys2Proof.Machine

/-- What a request's step keeps: everything but its caller's phase and the regulator's answers. -/
structure RequestKeeps (s t : State) : Prop where
  lock : t.lock = s.lock
  tx : t.tx = s.tx
  rx : t.rx = s.rx
  xfer : t.xfer = s.xfer
  others : ∀ c, c ≠ s.who → t.phaseOf c = s.phaseOf c
  life : t.life = s.life
  handles : t.handles = s.handles
  attachError : t.attachError = s.attachError
  params : t.params = s.params
  who : t.who = s.who
  agenda : t.agenda = s.agenda
  xferAnswers : t.xferAnswers = s.xferAnswers
  enableAnswers : t.enableAnswers = s.enableAnswers

theorem RequestKeeps.refl (s : State) : RequestKeeps s s :=
  ⟨rfl, rfl, rfl, rfl, fun _ _ => rfl, rfl, rfl, rfl, rfl, rfl, rfl, rfl, rfl⟩

theorem RequestKeeps.drawMv (s : State) : RequestKeeps s s.drawMv.2 where
  lock := s.drawMv_lock
  tx := s.drawMv_tx
  rx := s.drawMv_rx
  xfer := s.drawMv_xfer
  others c _ := s.drawMv_phaseOf c
  life := s.drawMv_life
  handles := s.drawMv_handles
  attachError := s.drawMv_attachError
  params := s.drawMv_params
  who := s.drawMv_who
  agenda := s.drawMv_agenda
  xferAnswers := s.drawMv_xferAnswers
  enableAnswers := s.drawMv_enableAnswers

/-- Moving the caller's phase is within what a request may do. -/
theorem RequestKeeps.setPhase {s v : State} (h : RequestKeeps s v) (p : Phase) : RequestKeeps s (v.setPhase v.who p) where
  lock := (State.setPhase_lock _ _ _).trans h.lock
  tx := (State.setPhase_tx _ _ _).trans h.tx
  rx := (State.setPhase_rx _ _ _).trans h.rx
  xfer := (State.setPhase_xfer _ _ _).trans h.xfer
  others c hc := (State.phaseOf_setPhase_of_ne _ (by rwa [h.who]) _).trans (h.others c hc)
  life := (State.setPhase_life _ _ _).trans h.life
  handles := (State.setPhase_handles _ _ _).trans h.handles
  attachError := (State.setPhase_attachError _ _ _).trans h.attachError
  params := (State.setPhase_params _ _ _).trans h.params
  who := (State.setPhase_who _ _ _).trans h.who
  agenda := (State.setPhase_agenda _ _ _).trans h.agenda
  xferAnswers := (State.setPhase_xferAnswers _ _ _).trans h.xferAnswers
  enableAnswers := (State.setPhase_enableAnswers _ _ _).trans h.enableAnswers

/-- A ready caller's request keeps all of that. -/
theorem requestEffect_keeps {i : Instr} {s t : State} (hi : isRequest i = true) (h : requestEffect i s = .next t) :
    RequestKeeps s t := by
  rcases requestEffect_cases hi h with ⟨rid, rfl⟩ | ⟨r, -, rfl, -⟩ | ⟨-, rfl⟩
  · exact (RequestKeeps.refl s).setPhase _
  · exact (RequestKeeps.refl s).setPhase _
  · exact (RequestKeeps.drawMv s).setPhase _

/-- Only a READ_SCALE uses the regulator's answers. -/
theorem requestEffect_mvAnswers {i : Instr} {s t : State} (hi : isRequest i = true) (h : requestEffect i s = .next t)
    (hscale : isReadScale i = false) : t.mvAnswers = s.mvAnswers ∧ t.draws = s.draws := by
  rcases requestEffect_cases hi h with ⟨rid, rfl⟩ | ⟨r, -, rfl, -⟩ | ⟨hscale', -⟩
  · exact ⟨State.setPhase_mvAnswers _ _ _, State.setPhase_draws _ _ _⟩
  · exact ⟨State.respond_mvAnswers _ _, State.respond_draws _ _⟩
  · exact Bool.noConfusion (hscale.symm.trans hscale')

/-- A request that gives a next state did nothing, or had its effect. -/
theorem exec_request_cases {i : Instr} {s t : State} (hi : isRequest i = true) (h : exec i s = .next t) :
    t = s ∨ requestEffect i s = .next t := by
  rw [exec_request hi] at h
  rcases issueGate_cases s (requestEffect i) with ⟨-, e⟩ | ⟨-, -, e⟩ | ⟨-, e⟩ <;> rw [e] at h
  · cases h
  · cases h; exact .inl rfl
  · exact .inr h

/-- Settles O46: doing nothing keeps everything, and the request's effect keeps what it must. -/
theorem requestFrame : Obligations.RequestFrame := by
  intro i s t hi h
  have hkeeps : RequestKeeps s t := by
    rcases exec_request_cases hi h with rfl | h
    · exact .refl t
    · exact requestEffect_keeps hi h
  refine ⟨hkeeps.lock, fun j => by rw [hkeeps.tx], fun j => by rw [hkeeps.rx], hkeeps.xfer, hkeeps.others, hkeeps.life,
    hkeeps.handles, hkeeps.attachError, hkeeps.params, hkeeps.who, hkeeps.agenda, hkeeps.xferAnswers,
    hkeeps.enableAnswers, fun hscale => ?_⟩
  rcases exec_request_cases hi h with rfl | h
  · exact ⟨rfl, rfl⟩
  · exact requestEffect_mvAnswers hi h hscale

end Sys2Proof.Machine
end

section
/-! PROOFS. The transaction (20_memory.md R57, R61, 40_codec.md R106 to R108): a step leaves it alone, begins it or
completes it; then O52, O53, O58 and, over runs, O57. -/

namespace Sys2Proof.Machine

/-- A step that leaves the transaction alone: the lock, the outstanding transfer, the transport's answers and the callers in
a transfer stay; the buffers stay too, but where the lifecycle changes, and there the lock is free. -/
structure KeepsTransaction (u t : State) : Prop where
  lock : t.lock = u.lock
  xfer : t.xfer = u.xfer
  xferAnswers : t.xferAnswers = u.xferAnswers
  inXfer : ∀ c rid, u.phaseOf c = .inXfer rid → t.phaseOf c = .inXfer rid
  buffers : (t.tx = u.tx ∧ t.rx = u.rx) ∨ (t.life ≠ u.life ∧ u.lock = none)

/-- A step that begins the transaction of caller `c` with register id `rid` (40_codec.md R106). -/
structure BeginsTransaction (u : State) (c : CallerId) (rid : Byte) (t : State) : Prop where
  free : u.lock = none
  waiting : u.phaseOf c = .waitLock rid
  who : t.who = c
  lock : t.lock = some c
  phase : t.phaseOf c = .inXfer rid
  xfer : t.xfer = some (encodeCommand u.params.fillerByte rid)
  xferAnswers : t.xferAnswers = u.xferAnswers

/-- A step that completes the transaction of caller `c` with register id `rid` (40_codec.md R107). -/
structure CompletesTransaction (u : State) (c : CallerId) (rid : Byte) (t : State) : Prop where
  held : u.lock = some c
  outstanding : u.phaseOf c = .inXfer rid
  who : t.who = c
  lock : t.lock = none
  tx : t.tx = u.tx
  xfer : t.xfer = none
  phase : t.phaseOf c = .done (transactionResponse u.drawXfer.1)

/-- A step of a caller that is in no transfer, and moves no phase but its own, keeps the transaction. -/
theorem KeepsTransaction.of_others {u t : State} {c : CallerId} (hlock : t.lock = u.lock) (hxfer : t.xfer = u.xfer)
    (hanswers : t.xferAnswers = u.xferAnswers) (htx : t.tx = u.tx) (hrx : t.rx = u.rx)
    (hc : ∀ rid, u.phaseOf c ≠ .inXfer rid) (hothers : ∀ d, d ≠ c → t.phaseOf d = u.phaseOf d) :
    KeepsTransaction u t where
  lock := hlock
  xfer := hxfer
  xferAnswers := hanswers
  inXfer d rid hd := (hothers d fun hdc => hc rid (hdc ▸ hd)).trans hd
  buffers := .inl ⟨htx, hrx⟩

/-- Every step keeps, begins or completes a transaction, and begins or completes one by no other event. -/
theorem StepInto.transaction {u t : State} {e : Event} (hu : Inv u) (h : StepInto u e t) :
    KeepsTransaction u t ∨ (∃ c rid, e = .acquire c ∧ BeginsTransaction u c rid t) ∨
      ∃ c rid, e = .complete c ∧ CompletesTransaction u c rid t := by
  cases h with
  | idle _ _ ht => rcases ht with rfl | ⟨c, rfl⟩ <;> exact .inl ⟨rfl, rfl, rfl, fun _ _ => id, .inl ⟨rfl, rfl⟩⟩
  | issue c w i _ hready _ hi ht =>
    have hkeeps := requestEffect_keeps hi ht
    exact .inl (.of_others (c := c) hkeeps.lock hkeeps.xfer hkeeps.xferAnswers hkeeps.tx hkeeps.rx
      (by rw [hready.2.2]; nofun) hkeeps.others)
  | acquire c rid _ hwait hfree =>
    refine .inr (.inl ⟨c, rid, rfl, ?_⟩)
    constructor <;> simp [hfree, hwait]
  | complete c rid cmd hx _ =>
    refine .inr (.inr ⟨c, rid, rfl, ?_⟩)
    constructor <;> simp [hx, (hu.ownerInXfer c).2 ⟨rid, hx⟩]
  | take c r hdone =>
    exact .inl (.of_others (c := c) rfl rfl rfl rfl rfl (by rw [hdone]; nofun)
      fun d hd => State.phaseOf_setPhase_of_ne _ hd _)
  | attachFails hd code _ _ =>
    exact .inl ⟨u.drawEnable_lock, u.drawEnable_xfer, u.drawEnable_xferAnswers,
      fun c _ hx => (u.drawEnable_phaseOf c).trans hx, .inl ⟨u.drawEnable_tx, u.drawEnable_rx⟩⟩
  | attach hd hlife _ =>
    obtain ⟨hlock, -, -, hphases, -, hxfer⟩ := hu.detachedEmpty hlife
    refine .inl ⟨hlock.symm, hxfer.symm, u.drawEnable_xferAnswers, fun c rid hx => ?_, .inr ⟨?_, hlock⟩⟩
    · rw [State.phaseOf, hphases] at hx
      cases hx
    · rw [hlife]; nofun
  | detach hlife hlock hidle =>
    refine .inl ⟨hlock.symm, (hu.xferNeedsLock hlock).symm, rfl, fun c rid hx => ?_, .inr ⟨?_, hlock⟩⟩
    · exact Phase.noConfusion ((hidle c).symm.trans hx)
    · rw [hlife]; nofun

/-- The transaction's moves, for a step of the device. -/
theorem step_transaction {s t : State} (hs : Inv s) (h : step s = .next t) :
    KeepsTransaction s.drawEvent.2 t ∨ (∃ c rid, s.drawEvent.1 = .acquire c ∧ BeginsTransaction s.drawEvent.2 c rid t) ∨
      ∃ c rid, s.drawEvent.1 = .complete c ∧ CompletesTransaction s.drawEvent.2 c rid t :=
  (step_into h).transaction hs.drawEvent

/-- Settles O52: with the lock held a step cannot begin a transaction, so it keeps this one or completes it. -/
theorem transactionIsAtomic : Obligations.TransactionIsAtomic := by
  intro s t c hs hheld hstep
  obtain ⟨rid, hx⟩ := (hs.ownerInXfer c).1 hheld
  rcases step_transaction hs hstep with hkeeps | ⟨d, rid', -, hbegins⟩ | ⟨d, rid', he, hcompletes⟩
  · obtain ⟨htx, hrx⟩ | ⟨-, hfree⟩ := hkeeps.buffers
    · rw [State.drawEvent_tx] at htx
      rw [State.drawEvent_rx] at hrx
      have hphase : t.phaseOf c = .inXfer rid := hkeeps.inXfer c rid ((s.drawEvent_phaseOf c).trans hx)
      exact .inl ⟨hkeeps.lock.trans (s.drawEvent_lock.trans hheld), htx, hrx, hkeeps.xfer.trans s.drawEvent_xfer,
        hphase.trans hx.symm⟩
    · rw [State.drawEvent_lock, hheld] at hfree
      cases hfree
  · have hfree := hbegins.free
    rw [State.drawEvent_lock, hheld] at hfree
    cases hfree
  · have hd := hcompletes.held
    rw [State.drawEvent_lock, hheld] at hd
    cases hd
    exact .inr ⟨he, hcompletes.lock, hcompletes.tx.trans s.drawEvent_tx, hcompletes.xfer, _, hcompletes.phase⟩

/-- Settles O53: a step that changes a buffer begins a transaction or completes one, and its caller is the owner. -/
theorem buffersChangeOnlyUnderTheLock : Obligations.BuffersChangeOnlyUnderTheLock := by
  intro s t hs hstep hlife hchanged
  rcases step_transaction hs hstep with hkeeps | ⟨c, rid, -, hbegins⟩ | ⟨c, rid, -, hcompletes⟩
  · obtain ⟨htx, hrx⟩ | ⟨hne, -⟩ := hkeeps.buffers
    · rw [State.drawEvent_tx] at htx
      rw [State.drawEvent_rx] at hrx
      exact absurd hchanged (by simp [htx, hrx])
    · exact absurd (hlife.trans s.drawEvent_life.symm) hne
  · exact .inr (hbegins.lock.trans (by rw [hbegins.who]))
  · rw [← s.drawEvent_lock, hcompletes.held, hcompletes.who]
    exact .inl rfl

/-- Settles O58: the transfer appears where a transaction begins, goes where it completes, and the transport's answers are
used there alone. -/
theorem transferIssuedOnceByItsAcquire : Obligations.TransferIssuedOnceByItsAcquire := by
  intro s t hs hstep
  rcases step_transaction hs hstep with hkeeps | ⟨c, rid, he, hbegins⟩ | ⟨c, rid, he, hcompletes⟩
  · have hxfer : t.xfer = s.xfer := hkeeps.xfer.trans s.drawEvent_xfer
    refine ⟨fun cmd hnone hsome => ?_, fun cmd hsome => .inl (hxfer.trans hsome), fun hne => ?_⟩
    · rw [hxfer, hnone] at hsome
      cases hsome
    · exact absurd (hkeeps.xferAnswers.trans s.drawEvent_xferAnswers) hne
  · have hfree : s.lock = none := s.drawEvent_lock.symm.trans hbegins.free
    refine ⟨fun cmd _ hsome => ?_, fun cmd hsome => ?_, fun hne => ?_⟩
    · refine ⟨c, rid, he, hfree, (s.drawEvent_phaseOf c).symm.trans hbegins.waiting, hbegins.phase, ?_⟩
      have hcmd := hsome.symm.trans hbegins.xfer
      rw [State.drawEvent_params] at hcmd
      exact Option.some.inj hcmd
    · rw [hs.xferNeedsLock hfree] at hsome
      cases hsome
    · exact absurd (hbegins.xferAnswers.trans s.drawEvent_xferAnswers) hne
  · refine ⟨fun cmd _ hsome => ?_, fun cmd _ => .inr ⟨c, he, ?_, hcompletes.xfer, hcompletes.phase⟩,
      fun _ => ⟨c, rid, he, (s.drawEvent_phaseOf c).symm.trans hcompletes.outstanding⟩⟩
    · rw [hcompletes.xfer] at hsome
      cases hsome
    · exact s.drawEvent_lock.symm.trans hcompletes.held

/-! ### A transfer that hangs -/

/-- No step writes the agenda; only the draw of its event shortens it. -/
theorem StepInto.agenda {u t : State} {e : Event} (h : StepInto u e t) : t.agenda = u.agenda := by
  cases h with
  | idle _ _ ht => rcases ht with rfl | ⟨c, rfl⟩ <;> rfl
  | issue c w i _ _ _ hi ht => exact (requestEffect_keeps hi ht).agenda
  | acquire c rid _ _ _ => exact State.setPhase_agenda _ _ _
  | complete c rid cmd _ _ => exact (State.setPhase_agenda _ _ _).trans u.drawXfer_agenda
  | take c r _ => exact State.setPhase_agenda _ _ _
  | attachFails _ _ _ _ => exact u.drawEnable_agenda
  | attach _ _ _ => exact u.drawEnable_agenda
  | detach _ _ _ => rfl

/-- Settles O57, by induction on the run's length: no step but the completion of this transfer ends its transaction, and
none of the agenda's events is that one. -/
theorem hungTransferHoldsTheLock : Obligations.HungTransferHoldsTheLock := by
  intro k
  induction k with
  | zero =>
    intro s t c rid hs hx _ _ hrun
    cases hrun
    exact ⟨hx, (hs.ownerInXfer c).2 ⟨rid, hx⟩, rfl, rfl, rfl⟩
  | succ k ih =>
    intro s t c rid hs hx hk hne hrun
    obtain ⟨s', hstep, hrun⟩ := run_succ_cases hrun
    obtain ⟨e, rest, hagenda⟩ : ∃ e rest, s.agenda = e :: rest :=
      List.exists_cons_of_length_pos (Nat.zero_lt_of_lt hk)
    have hdraw : s.drawEvent = (e, { s with agenda := rest }) := by simp only [State.drawEvent, hagenda]
    rw [hagenda, List.take_succ_cons, List.forall_mem_cons] at hne
    obtain ⟨he, hne⟩ := hne
    have hheld : s.lock = some c := (hs.ownerInXfer c).2 ⟨rid, hx⟩
    have hrest : s'.agenda = rest := (step_into hstep).agenda.trans (by rw [hdraw])
    rcases transactionIsAtomic s s' c hs hheld hstep with ⟨-, htx, hrx, hxfer, hphase⟩ | ⟨he', -⟩
    · have hk' : k ≤ s'.agenda.length := by
        rw [hrest]
        rw [hagenda, List.length_cons] at hk
        omega
      have hrest' := ih s' t c rid (everyStepKeepsTheInvariant s s' hs hstep) (hphase.trans hx) hk' (by rwa [hrest]) hrun
      rwa [htx, hrx, hxfer] at hrest'
    · rw [hdraw] at he'
      exact absurd he' he

end Sys2Proof.Machine
end

section
/-! PROOFS. What every step leaves alone: the parameters, and the handles while the lifecycle stays (00_scope.md R9,
10_state.md R34); then O48. -/

namespace Sys2Proof.Machine

/-- No event writes the parameters. -/
theorem StepInto.params {u t : State} {e : Event} (h : StepInto u e t) : t.params = u.params := by
  cases h with
  | idle _ _ ht => rcases ht with rfl | ⟨c, rfl⟩ <;> rfl
  | issue c w i _ _ _ hi ht => exact (requestEffect_keeps hi ht).params
  | acquire c rid _ _ _ => exact State.setPhase_params _ _ _
  | complete c rid cmd _ _ => exact (State.setPhase_params _ _ _).trans u.drawXfer_params
  | take c r _ => exact State.setPhase_params _ _ _
  | attachFails _ _ _ _ => exact u.drawEnable_params
  | attach _ _ _ => exact u.drawEnable_params
  | detach _ _ _ => rfl

/-- Only a successful attach and a detach write the handles, and both change the lifecycle. -/
theorem StepInto.handles {u t : State} {e : Event} (h : StepInto u e t) (hlife : t.life = u.life) :
    t.handles = u.handles := by
  cases h with
  | idle _ _ ht => rcases ht with rfl | ⟨c, rfl⟩ <;> rfl
  | issue c w i _ _ _ hi ht => exact (requestEffect_keeps hi ht).handles
  | acquire c rid _ _ _ => exact State.setPhase_handles _ _ _
  | complete c rid cmd _ _ => exact (State.setPhase_handles _ _ _).trans u.drawXfer_handles
  | take c r _ => exact State.setPhase_handles _ _ _
  | attachFails _ _ _ _ => exact u.drawEnable_handles
  | attach _ hl _ => exact nomatch hlife.trans hl
  | detach hl _ _ => exact nomatch hlife.trans hl

theorem step_params {s t : State} (h : step s = .next t) : t.params = s.params :=
  (step_into h).params.trans s.drawEvent_params

/-- Settles O48: the draw of the event writes neither, so it is what the event does. -/
theorem parametersAndHandlesAreFixed : Obligations.ParametersAndHandlesAreFixed :=
  fun s _ hstep => ⟨step_params hstep, fun hlife =>
    ((step_into hstep).handles (hlife.trans s.drawEvent_life.symm)).trans s.drawEvent_handles⟩

end Sys2Proof.Machine
end

section
/-! PROOFS. A step moves at most one caller's phase, along an edge of 10_state.md R27: O54. -/

namespace Sys2Proof.Machine

/-- No caller's phase moves, or one does, along an edge. -/
def MovesOnePhase (u t : State) : Prop :=
  (∀ c, t.phaseOf c = u.phaseOf c) ∨
    ∃ c, PhaseEdge (u.phaseOf c) (t.phaseOf c) ∧ ∀ c', c' ≠ c → t.phaseOf c' = u.phaseOf c'

/-- Setting one phase to an edge's end, on a state with the phases of `u`. -/
theorem MovesOnePhase.setPhase {u v : State} {c : CallerId} {p q : Phase} (hphases : v.phases = u.phases)
    (hq : u.phaseOf c = q) (hedge : PhaseEdge q p) : MovesOnePhase u (v.setPhase c p) := by
  refine .inr ⟨c, ?_, fun d hd => ?_⟩
  · rwa [State.phaseOf_setPhase_self, hq]
  · rw [State.phaseOf_setPhase_of_ne _ hd, State.phaseOf_congr hphases]

/-- An idle caller's request leaves it waiting or with a response. -/
theorem requestEffect_movesOnePhase {u t : State} {c : CallerId} {i : Instr} (hi : isRequest i = true)
    (hidle : u.phaseOf c = .idle) (h : requestEffect i { u with who := c } = .next t) : MovesOnePhase u t := by
  rcases requestEffect_cases hi h with ⟨rid, rfl⟩ | ⟨r, -, rfl, -⟩ | ⟨-, rfl⟩
  · exact .setPhase rfl hidle (.idleWait rid)
  · exact .setPhase rfl hidle (.idleDone r)
  · rw [State.respond, State.drawMv_who]
    exact .setPhase (State.drawMv_phases _) hidle (.idleDone _)

/-- Every event moves at most one phase; an attach and a detach find every caller idle, and leave it so. -/
theorem StepInto.movesOnePhase {u t : State} {e : Event} (hu : Inv u) (h : StepInto u e t) : MovesOnePhase u t := by
  cases h with
  | idle _ _ ht => rcases ht with rfl | ⟨c, rfl⟩ <;> exact .inl fun _ => rfl
  | issue c w i _ hready _ hi ht => exact requestEffect_movesOnePhase hi hready.2.2 ht
  | acquire c rid _ hwait _ => exact .setPhase rfl hwait (.waitXfer rid)
  | complete c rid cmd hx _ => exact .setPhase u.drawXfer_phases hx (.xferDone rid _)
  | take c r hdone => exact .setPhase rfl hdone (.doneIdle r)
  | attachFails _ _ _ _ => exact .inl u.drawEnable_phaseOf
  | attach hd hlife _ =>
    obtain ⟨-, -, -, hphases, -, -⟩ := hu.detachedEmpty hlife
    exact .inl (State.phaseOf_congr hphases.symm)
  | detach _ _ hidle => exact .inl fun c => (hidle c).symm

/-- Settles O54: drawing the event moves no phase. -/
theorem phasesMoveAlongTheirEdges : Obligations.PhasesMoveAlongTheirEdges := by
  intro s t hs hstep
  simpa only [MovesOnePhase, State.drawEvent_phaseOf] using (step_into hstep).movesOnePhase hs.drawEvent

end Sys2Proof.Machine
end

section
/-! PROOFS. Linearizability (20_memory.md R66): each step is the move of the serial machine that `serialActOf` reads off
it, or none; then O59, over runs by induction on their length. -/

namespace Sys2Proof.Machine

/-! ### The serial phases -/

/-- Setting a phase sets its serial phase. -/
theorem State.serial_setPhase (s : State) (c : CallerId) (p : Phase) :
    (s.setPhase c p).serial = Function.update s.serial c p.serial := by
  funext d
  by_cases hd : d = c
  · subst hd
    rw [Function.update_self, State.serial, State.phaseOf_setPhase_self]
  · rw [Function.update_of_ne hd, State.serial, State.phaseOf_setPhase_of_ne _ hd, State.serial]

/-- Serial phases depend on the phases alone. -/
theorem State.serial_congr {s t : State} (h : ∀ c, t.phaseOf c = s.phaseOf c) : t.serial = s.serial :=
  funext fun c => congrArg Phase.serial (h c)

@[simp] theorem State.drawEvent_serial (s : State) : s.drawEvent.2.serial = s.serial :=
  State.serial_congr s.drawEvent_phaseOf

/-- Moving a phase within one serial phase changes nothing. -/
theorem State.serial_setPhase_of_eq {u v : State} {c : CallerId} {p : Phase} (hv : ∀ d, v.phaseOf d = u.phaseOf d)
    (hp : p.serial = u.serial c) : (v.setPhase c p).serial = u.serial := by
  rw [State.serial_setPhase, State.serial_congr hv, hp, Function.update_eq_self]

/-! ### Each kind of move -/

/-- A ready caller's request is the serial machine's issue of it, with the answer drawn. -/
theorem requestEffect_serial {i : Instr} {s t : State} (hi : isRequest i = true) (h : requestEffect i s = .next t) :
    ∃ q, serialIssue s.params.fillerByte s.drawMv.1 i = some q ∧ t.serial = Function.update s.serial s.who q := by
  cases i with
  | encodeCommand rid => cases h; exact ⟨_, rfl, State.serial_setPhase _ _ _⟩
  | decodeReply r0 r1 r2 => cases h; exact ⟨_, rfl, State.serial_setPhase _ _ _⟩
  | registerIdFor line se =>
    simp only [requestEffect] at h
    split at h
    next rid hrid => cases h; exact ⟨_, by rw [serialIssue, hrid]; rfl, State.serial_setPhase _ _ _⟩
    next => cases h
  | performTransaction rid => cases h; exact ⟨_, rfl, State.serial_setPhase _ _ _⟩
  | readRaw d =>
    simp only [requestEffect] at h
    split at h
    next hrid => cases h; exact ⟨_, by rw [serialIssue, hrid]; rfl, State.serial_setPhase _ _ _⟩
    next rid hrid => cases h; exact ⟨_, by rw [serialIssue, hrid]; rfl, State.serial_setPhase _ _ _⟩
  | readScale d =>
    cases h
    refine ⟨_, rfl, ?_⟩
    rw [State.respond, State.serial_setPhase, State.drawMv_who, State.serial_congr s.drawMv_phaseOf]
    rfl
  | _ => simp [isRequest] at hi

/-- The draw does not read which caller's step it is. -/
theorem State.drawMv_who_eq (u : State) (c : CallerId) : ({ u with who := c } : State).drawMv.1 = u.drawMv.1 := by
  simp only [State.drawMv]
  cases u.mvAnswers <;> rfl

/-- The completion of caller `c`'s transfer, its answer drawn from the state itself. -/
theorem completeTransfer_who_eq (u : State) (c : CallerId) :
    completeTransfer { u with who := c } = .next (({ u.drawXfer.2 with
      who := c
      rx := rxOf u.rx u.drawXfer.1
      lock := none
      xfer := none }).setPhase c (.done (transactionResponse u.drawXfer.1))) := by
  rw [completeTransfer_eq, State.drawXfer_who_eq]
  rfl

/-- The step that completes an outstanding transfer. -/
theorem step_of_drawEvent_complete_eq {s : State} {c : CallerId} {rid : Byte} (hs : Inv s)
    (he : s.drawEvent.1 = .complete c) (hx : s.phaseOf c = .inXfer rid) :
    step s = completeTransfer { s.drawEvent.2 with who := c } := by
  have hx : s.drawEvent.2.phaseOf c = .inXfer rid := (s.drawEvent_phaseOf c).trans hx
  obtain ⟨hwire, -⟩ := hs.drawEvent.wireCommand c rid hx
  rw [step_eq_runEvent, he]
  exact completeExchange_of_outstanding hx hwire

/-- The step in which a caller takes its response. -/
theorem step_of_drawEvent_take {s : State} {c : CallerId} {r : Response} (he : s.drawEvent.1 = .take c)
    (hdone : s.phaseOf c = .done r) : step s = .next (State.setPhase { s.drawEvent.2 with who := c } c .idle) := by
  have hdone : s.drawEvent.2.phaseOf c = .done r := (s.drawEvent_phaseOf c).trans hdone
  rw [step_eq_runEvent, he]
  rcases takeResponse_cases c { s.drawEvent.2 with who := c } with ⟨-, -, e⟩ | ⟨hnot, -⟩
  · exact congrArg _ e
  · exact absurd hdone (hnot r)

/-- An issue of a ready caller's request makes its serial move. -/
theorem step_issue_serial {s t : State} {c : CallerId} {w : ReqWord} {i : Instr} (hstep : step s = .next t)
    (he : s.drawEvent.1 = .issue c w) (hready : ReadyFor s c) (hw : decodeReq w = .ok i) :
    ∃ q, serialIssue s.params.fillerByte s.drawEvent.2.drawMv.1 i = some q ∧
      t.serial = Function.update s.serial c q := by
  rw [step_of_drawEvent_issue he hready hw] at hstep
  obtain ⟨q, hq, ht⟩ := requestEffect_serial (isRequest_of_decodeReq hw) hstep
  rw [State.drawMv_who_eq] at hq
  refine ⟨q, ?_, ?_⟩
  · rw [← s.drawEvent_params]
    exact hq
  · rw [← s.drawEvent_serial]
    exact ht

/-- A completion serves the whole transaction. -/
theorem step_complete_serial {s t : State} {c : CallerId} {rid : Byte} (hs : Inv s) (hstep : step s = .next t)
    (he : s.drawEvent.1 = .complete c) (hx : s.phaseOf c = .inXfer rid) :
    t.serial = Function.update s.serial c (.done (transactionResponse s.drawEvent.2.drawXfer.1)) := by
  rw [step_of_drawEvent_complete_eq hs he hx, completeTransfer_who_eq] at hstep
  cases hstep
  rw [State.serial_setPhase]
  refine congrArg (Function.update · c _) (State.serial_congr fun d => ?_)
  exact (State.drawXfer_phaseOf _ d).trans (s.drawEvent_phaseOf d)

/-- A take is the serial machine's. -/
theorem step_take_serial {s t : State} {c : CallerId} {r : Response} (hstep : step s = .next t)
    (he : s.drawEvent.1 = .take c) (hdone : s.phaseOf c = .done r) :
    t.serial = Function.update s.serial c .idle := by
  rw [step_of_drawEvent_take he hdone] at hstep
  cases hstep
  rw [State.serial_setPhase]
  exact congrArg (Function.update · c _) (State.serial_congr s.drawEvent_phaseOf)

/-- An event that issues no request, completes no transfer and takes no response moves no serial phase. -/
theorem StepInto.serial {u t : State} {e : Event} (hu : Inv u) (h : StepInto u e t) :
    t.serial = u.serial ∨ (∃ c w i, e = .issue c w ∧ ReadyFor u c ∧ decodeReq w = .ok i) ∨
      (∃ c rid, e = .complete c ∧ u.phaseOf c = .inXfer rid) ∨ ∃ c r, e = .take c ∧ u.phaseOf c = .done r := by
  cases h with
  | idle _ _ ht => rcases ht with rfl | ⟨c, rfl⟩ <;> exact .inl rfl
  | issue c w i _ hready hw _ _ => exact .inr (.inl ⟨c, w, i, rfl, hready, hw⟩)
  | acquire c rid _ hwait _ =>
    refine .inl (State.serial_setPhase_of_eq (fun _ => rfl) ?_)
    rw [State.serial, hwait]
    rfl
  | complete c rid cmd hx _ => exact .inr (.inr (.inl ⟨c, rid, rfl, hx⟩))
  | take c r hdone => exact .inr (.inr (.inr ⟨c, r, rfl, hdone⟩))
  | attachFails _ _ _ _ => exact .inl (State.serial_congr u.drawEnable_phaseOf)
  | attach _ hlife _ =>
    obtain ⟨-, -, -, hphases, -, -⟩ := hu.detachedEmpty hlife
    exact .inl (State.serial_congr (State.phaseOf_congr hphases.symm))
  | detach _ _ hidle => exact .inl (State.serial_congr fun c => (hidle c).symm)

/-- A step moves no serial phase but by the move of its event. -/
theorem step_serial_cases {s t : State} (hs : Inv s) (hstep : step s = .next t) :
    t.serial = s.serial ∨ (∃ c w i, s.drawEvent.1 = .issue c w ∧ ReadyFor s c ∧ decodeReq w = .ok i) ∨
      (∃ c rid, s.drawEvent.1 = .complete c ∧ s.phaseOf c = .inXfer rid) ∨
      ∃ c r, s.drawEvent.1 = .take c ∧ s.phaseOf c = .done r := by
  simpa only [State.drawEvent_serial, ReadyFor, State.drawEvent_life, State.drawEvent_nCallers,
    State.drawEvent_phaseOf] using (step_into hstep).serial hs.drawEvent

/-! ### The move read off a step -/

theorem serialActOf_of_issue {s : State} {c : CallerId} {w : ReqWord} {i : Instr} (he : s.drawEvent.1 = .issue c w)
    (hready : ReadyFor s c) (hw : decodeReq w = .ok i) :
    serialActOf s = some (.issue c i s.drawEvent.2.drawMv.1) := by
  simp only [serialActOf, he, hready.1, State.canIssue_iff.2 hready.2, hw]

theorem serialActOf_of_complete {s : State} {c : CallerId} {rid : Byte} (he : s.drawEvent.1 = .complete c)
    (hx : s.phaseOf c = .inXfer rid) : serialActOf s = some (.serve c rid s.drawEvent.2.drawXfer.1) := by
  simp only [serialActOf, he, hx]

theorem serialActOf_of_take {s : State} {c : CallerId} {r : Response} (he : s.drawEvent.1 = .take c)
    (hdone : s.phaseOf c = .done r) : serialActOf s = some (.take c) := by
  simp only [serialActOf, he, hdone]

/-- The move read off a step is the step's own: its event's issue, completion or take, where that is enabled. -/
theorem serialActOf_cases {s : State} {a : SerialAct} (h : serialActOf s = some a) :
    (∃ c w i, s.drawEvent.1 = .issue c w ∧ ReadyFor s c ∧ decodeReq w = .ok i) ∨
      (∃ c rid, s.drawEvent.1 = .complete c ∧ s.phaseOf c = .inXfer rid) ∨
      ∃ c r, s.drawEvent.1 = .take c ∧ s.phaseOf c = .done r := by
  unfold serialActOf at h
  split at h
  next c w he =>
    split at h
    next i hlife hcan hw => exact .inl ⟨c, w, i, he, ⟨hlife, State.canIssue_iff.1 hcan⟩, hw⟩
    next => cases h
  next c he =>
    split at h
    next rid hx => exact .inr (.inl ⟨c, rid, he, hx⟩)
    next => cases h
  next c he =>
    split at h
    next r hdone => exact .inr (.inr ⟨c, r, he, hdone⟩)
    next => cases h
  all_goals cases h

/-- One step is the serial run of the move read off it. -/
theorem serialRun_serialActOf {s t : State} (hs : Inv s) (hstep : step s = .next t) :
    serialRun s.params.fillerByte s.serial (serialActOf s).toList = some t.serial := by
  by_cases henabled : (∃ c w i, s.drawEvent.1 = .issue c w ∧ ReadyFor s c ∧ decodeReq w = .ok i) ∨
      (∃ c rid, s.drawEvent.1 = .complete c ∧ s.phaseOf c = .inXfer rid) ∨
      ∃ c r, s.drawEvent.1 = .take c ∧ s.phaseOf c = .done r
  · rcases henabled with ⟨c, w, i, he, hready, hw⟩ | ⟨c, rid, he, hx⟩ | ⟨c, r, he, hdone⟩
    · obtain ⟨q, hq, ht⟩ := step_issue_serial hstep he hready hw
      have hidle : s.serial c = .idle := congrArg Phase.serial hready.2.2
      simp [serialActOf_of_issue he hready hw, serialRun, SerialAct.apply, hidle, hq, ht]
    · have hpending : s.serial c = .pending rid := congrArg Phase.serial hx
      simp [serialActOf_of_complete he hx, serialRun, SerialAct.apply, hpending, step_complete_serial hs hstep he hx]
    · have hresp : s.serial c = .done r := congrArg Phase.serial hdone
      simp [serialActOf_of_take he hdone, serialRun, SerialAct.apply, hresp, step_take_serial hstep he hdone]
  · have hnone : serialActOf s = none :=
      Option.eq_none_iff_forall_ne_some.2 fun _ ha => henabled (serialActOf_cases ha)
    obtain hsame | hmove := step_serial_cases hs hstep
    · rw [hnone, hsame]
      rfl
    · exact absurd hmove henabled

/-- Moves one after another. -/
theorem serialRun_append (filler : Byte) (p : CallerId → SerialPhase) (l l' : List SerialAct) :
    serialRun filler p (l ++ l') = (serialRun filler p l).bind fun q => serialRun filler q l' := by
  induction l generalizing p with
  | nil => rfl
  | cons a l ih => simp only [List.cons_append, serialRun, Option.bind_assoc, ih]

/-- A run is the serial run of its moves. -/
theorem serialRun_serialTrace {k : Nat} {s t : State} (hs : Inv s) (hrun : Sys2Proof.core.run k s = .next t) :
    serialRun s.params.fillerByte s.serial (serialTrace k s) = some t.serial := by
  induction k generalizing s with
  | zero => cases hrun; rfl
  | succ k ih =>
    obtain ⟨s', hstep, hrun⟩ := run_succ_cases hrun
    have hrest := ih ((step_into hstep).inv hs.drawEvent) hrun
    rw [step_params hstep] at hrest
    have htrace : serialTrace (k + 1) s = (serialActOf s).toList ++ serialTrace k s' := by
      simp only [serialTrace, hstep]
    rw [htrace, serialRun_append, serialRun_serialActOf hs hstep]
    exact hrest

/-- Settles O59: a step's move, kind by kind, and the runs by induction. -/
theorem runsAreSerialRuns : Obligations.RunsAreSerialRuns := by
  refine ⟨fun s t hs hstep => ⟨?_, ?_, ?_, step_serial_cases hs hstep⟩, fun k s t hs hrun => serialRun_serialTrace hs hrun⟩
  · intro c w i he hready hw
    exact ⟨congrArg Phase.serial hready.2.2, step_issue_serial hstep he hready hw⟩
  · intro c rid he hx
    exact ⟨(hs.ownerInXfer c).2 ⟨rid, hx⟩, congrArg Phase.serial hx, step_complete_serial hs hstep he hx⟩
  · intro c r he hdone
    exact step_take_serial hstep he hdone

end Sys2Proof.Machine
end

section
/-! PROOFS. Decode and encode agree (30_encoding.md R84 to R87, R76): every request's word and every command is read
back, and a code the decoder accepts has no other bits; then O3 and O4. -/

namespace Sys2Proof.Machine

open Sys2Proof.Laws (TableRow.encodeCommand TableRow.registerIdFor TableRow.performTransaction TableRow.readRaw
  TableRow.readScale)

/-! ### Encoded words -/

/-- A word that agrees with a row's match on the row's mask has no reserved bit, where the mask covers its operation's
reserved bits and the match has none of them. -/
theorem reservedBitIsSet_of_row {w : ReqWord} {op : BitVec 3} (mask value : ReqWord) (hop : w.op = op)
    (hrow : w &&& mask = value) (hmask : mask &&& reservedMask op = reservedMask op)
    (hvalue : value &&& reservedMask op = 0) : reservedBitIsSet w = false := by
  subst hop
  refine bne_eq_false_iff_eq.2 ?_
  calc w &&& reservedMask w.op = (w &&& mask) &&& reservedMask w.op := by rw [BitVec.and_assoc, hmask]
    _ = 0 := by rw [hrow, hvalue]

/-- The packed word of ENCODE_COMMAND decodes to it. -/
theorem decodeReq_packReq_encodeCommand (rid : Byte) :
    decodeReq (packReq 0 false false 0 0 rid) = .ok (.encodeCommand rid) := by
  have hfree : reservedBitIsSet (packReq 0 false false 0 0 rid) = false :=
    reservedBitIsSet_of_row 0xFFFFFF00 0x00000000 (packReq_op _ _ _ _ _ _) (TableRow.encodeCommand rid).2
      (by decide) (by decide)
  rw [decodeReq, hfree, if_neg Bool.false_ne_true, packReq_op, packReq_byte0]
  rfl

/-- The packed word of REGISTER_ID_FOR decodes to it. -/
theorem decodeReq_packReq_registerIdFor (line : Byte) (se : Bool) :
    decodeReq (packReq 2 false false 0 line (if se then 1 else 0)) = .ok (.registerIdFor line se) := by
  have hfree : reservedBitIsSet (packReq 2 false false 0 line (if se then 1 else 0)) = false :=
    reservedBitIsSet_of_row 0xFFFF00FE 0x40000000 (packReq_op _ _ _ _ _ _) (TableRow.registerIdFor line se).2
      (by decide) (by decide)
  have hse : (if se then (1 : Byte) else 0).getLsbD 0 = se := by cases se <;> rfl
  rw [decodeReq, hfree, if_neg Bool.false_ne_true, packReq_op, packReq_byte1, packReq_seBit, hse]
  rfl

/-- The packed word of PERFORM_TRANSACTION decodes to it. -/
theorem decodeReq_packReq_performTransaction (rid : Byte) :
    decodeReq (packReq 3 false false 0 0 rid) = .ok (.performTransaction rid) := by
  have hfree : reservedBitIsSet (packReq 3 false false 0 0 rid) = false :=
    reservedBitIsSet_of_row 0xFFFFFF00 0x60000000 (packReq_op _ _ _ _ _ _) (TableRow.performTransaction rid).2
      (by decide) (by decide)
  rw [decodeReq, hfree, if_neg Bool.false_ne_true, packReq_op, packReq_byte0]
  rfl

@[simp] theorem packDesc_op (op : BitVec 3) (d : Desc) : (packDesc op d).op = op := by
  unfold packDesc
  split <;> exact packReq_op _ _ _ _ _ _

/-- A packed descriptor is read back, an absent pair as absent (30_encoding.md R86). -/
@[simp] theorem descOf_packDesc (op : BitVec 3) (d : Desc) : descOf (packDesc op d) = d := by
  obtain ⟨diff, p, pair⟩ := d
  cases pair <;> simp [packDesc, descOf]

/-- A packed descriptor keeps R86's rule on `hp` and `pair`. -/
@[simp] theorem pairWithoutHpBit_packDesc (op : BitVec 3) (d : Desc) : pairWithoutHpBit (packDesc op d) = false := by
  obtain ⟨diff, p, pair⟩ := d
  cases pair <;> simp [packDesc, pairWithoutHpBit]

/-- A word of operation 4 without a reserved bit, and with R86's pair rule kept, is a READ_RAW. -/
theorem decodeReq_of_op_readRaw {w : ReqWord} (hop : w.op = 4) (hfree : reservedBitIsSet w = false)
    (hpair : pairWithoutHpBit w = false) : decodeReq w = .ok (.readRaw (descOf w)) := by
  rw [decodeReq, hfree, if_neg Bool.false_ne_true, hop, hpair]
  rfl

/-- A word of operation 5 without a reserved bit, and with R86's pair rule kept, is a READ_SCALE. -/
theorem decodeReq_of_op_readScale {w : ReqWord} (hop : w.op = 5) (hfree : reservedBitIsSet w = false)
    (hpair : pairWithoutHpBit w = false) : decodeReq w = .ok (.readScale (descOf w)) := by
  rw [decodeReq, hfree, if_neg Bool.false_ne_true, hop, hpair]
  rfl

/-- The packed word of READ_RAW decodes to it, at every descriptor. -/
theorem decodeReq_packDesc_readRaw (d : Desc) : decodeReq (packDesc 4 d) = .ok (.readRaw d) := by
  have hfree : reservedBitIsSet (packDesc 4 d) = false :=
    reservedBitIsSet_of_row 0xE70000FF 0x80000000 (packDesc_op _ _) (TableRow.readRaw d).2 (by decide) (by decide)
  rw [decodeReq_of_op_readRaw (packDesc_op _ _) hfree (pairWithoutHpBit_packDesc _ _), descOf_packDesc]

/-- The packed word of READ_SCALE decodes to it, at every descriptor. -/
theorem decodeReq_packDesc_readScale (d : Desc) : decodeReq (packDesc 5 d) = .ok (.readScale d) := by
  have hfree : reservedBitIsSet (packDesc 5 d) = false :=
    reservedBitIsSet_of_row 0xE70000FF 0xA0000000 (packDesc_op _ _) (TableRow.readScale d).2 (by decide) (by decide)
  rw [decodeReq_of_op_readScale (packDesc_op _ _) hfree (pairWithoutHpBit_packDesc _ _), descOf_packDesc]

theorem decode_req_of_ok {w : ReqWord} {i : Instr} (h : decodeReq w = .ok i) : decode (.req w) = .ok i := by
  simp only [decode, h]

/-- Settles O3: a request by its word's fields, a wire command by computing the decoder on its register id. -/
theorem decodeOfEncodeIsTheInstruction : Obligations.DecodeOfEncodeIsTheInstruction := by
  intro i
  cases i with
  | encodeCommand rid => exact decode_req_of_ok (decodeReq_packReq_encodeCommand rid)
  | decodeReply r0 r1 r2 => exact decode_req_of_ok (decodeReq_packReq_decodeReply r0 r1 r2)
  | registerIdFor line se => exact decode_req_of_ok (decodeReq_packReq_registerIdFor line se)
  | performTransaction rid => exact decode_req_of_ok (decodeReq_packReq_performTransaction rid)
  | readRaw d => exact decode_req_of_ok (decodeReq_packDesc_readRaw d)
  | readScale d => exact decode_req_of_ok (decodeReq_packDesc_readScale d)
  | _ => rfl

/-! ### Accepted words -/

/-- A bit under a mask that clears the word is 0. -/
theorem ReqWord.bit_of_masked {w mask : ReqWord} (h : w &&& mask = 0) {i : Nat} (hi : mask.getLsbD i = true) :
    w.getLsbD i = false := by
  have hbit := congrArg (fun v => BitVec.getLsbD v i) h
  simpa [hi] using hbit

/-- A field under a mask that clears the word is 0. -/
theorem ReqWord.field_of_masked {w mask : ReqWord} (h : w &&& mask = 0) {start len : Nat}
    (hfield : ∀ i < len, mask.getLsbD (start + i) = true) : w.extractLsb' start len = 0 := by
  apply BitVec.eq_of_getLsbD_eq
  intro i hi
  simp [ReqWord.bit_of_masked h (hfield i hi)]

/-- A word is the packing of its fields where a mask that clears it covers bits 26:24. -/
theorem packReq_of_masked {w mask : ReqWord} {op : BitVec 3} (hop : w.op = op) (h : w &&& mask = 0)
    (hzero : ∀ i < 3, mask.getLsbD (24 + i) = true) :
    packReq op w.diffBit w.hpBit w.byte2 w.byte1 w.byte0 = w :=
  hop ▸ packReq_fields (ReqWord.field_of_masked h hzero)

/-- A word with nothing in its upper three bytes but the operation. -/
theorem packReq_rid {w : ReqWord} {op : BitVec 3} (hop : w.op = op) (h : w &&& 0x1FFFFF00 = 0) :
    packReq op false false 0 0 w.byte0 = w := by
  have hdiff : w.diffBit = false := ReqWord.bit_of_masked h (by decide)
  have hhp : w.hpBit = false := ReqWord.bit_of_masked h (by decide)
  have hbyte2 : w.byte2 = 0 := ReqWord.field_of_masked h (by decide)
  have hbyte1 : w.byte1 = 0 := ReqWord.field_of_masked h (by decide)
  have hall := packReq_of_masked hop h (by decide)
  rwa [hdiff, hhp, hbyte2, hbyte1] at hall

/-- A word with nothing in its top byte but the operation. -/
theorem packReq_reply {w : ReqWord} {op : BitVec 3} (hop : w.op = op) (h : w &&& 0x1F000000 = 0) :
    packReq op false false w.byte2 w.byte1 w.byte0 = w := by
  have hdiff : w.diffBit = false := ReqWord.bit_of_masked h (by decide)
  have hhp : w.hpBit = false := ReqWord.bit_of_masked h (by decide)
  have hall := packReq_of_masked hop h (by decide)
  rwa [hdiff, hhp] at hall

/-- A byte with nothing above its lowest bit is that bit. -/
theorem ReqWord.byte0_eq_seBit {w : ReqWord} (h : w.extractLsb' 1 7 = 0) : w.byte0 = if w.seBit then 1 else 0 := by
  have hhigh : ∀ i < 7, w.getLsbD (1 + i) = false := fun i hi => by
    have hbit := congrArg (fun v => BitVec.getLsbD v i) h
    simpa [hi] using hbit
  apply BitVec.eq_of_getLsbD_eq
  intro i hi
  rw [ReqWord.byte0, BitVec.getLsbD_extractLsb', Nat.zero_add, decide_eq_true hi, Bool.true_and]
  cases i with
  | zero => rw [← ReqWord.seBit]; cases w.seBit <;> rfl
  | succ i =>
    rw [Nat.add_comm, hhigh i (by omega)]
    cases w.seBit <;> simp [BitVec.getLsbD_one]

/-- A word with nothing but the operation, byte 1 and bit 0. -/
theorem packReq_line {w : ReqWord} {op : BitVec 3} (hop : w.op = op) (h : w &&& 0x1FFF00FE = 0) :
    packReq op false false 0 w.byte1 (if w.seBit then 1 else 0) = w := by
  have hdiff : w.diffBit = false := ReqWord.bit_of_masked h (by decide)
  have hhp : w.hpBit = false := ReqWord.bit_of_masked h (by decide)
  have hbyte2 : w.byte2 = 0 := ReqWord.field_of_masked h (by decide)
  have hbyte0 : w.byte0 = if w.seBit then 1 else 0 := ReqWord.byte0_eq_seBit (ReqWord.field_of_masked h (by decide))
  have hall := packReq_of_masked hop h (by decide)
  rwa [hdiff, hhp, hbyte2, hbyte0] at hall

/-- A descriptor's word that keeps R86's pair rule. -/
theorem packDesc_descOf {w : ReqWord} {op : BitVec 3} (hop : w.op = op) (h : w &&& 0x070000FF = 0)
    (hpair : pairWithoutHpBit w = false) :
    packDesc op (descOf w) = w := by
  have hbyte0 : w.byte0 = 0 := ReqWord.field_of_masked h (by decide)
  have hall := packReq_of_masked hop h (by decide)
  rw [hbyte0] at hall
  cases hhp : w.hpBit with
  | true => simpa [descOf, packDesc, hhp] using hall
  | false =>
    have hbyte1 : w.byte1 = 0 := by simpa [pairWithoutHpBit, hhp] using hpair
    simpa [descOf, packDesc, hhp, hbyte1] using hall

/-- A check that answers is passed. -/
theorem ok_of_ite_error {b : Bool} {e : ReqError} {i j : Instr}
    (h : (if b then .error e else .ok j : Except ReqError Instr) = .ok i) : b = false ∧ j = i := by
  cases b with
  | true => cases h
  | false => exact ⟨rfl, Except.ok.inj h⟩

/-- An accepted request word is its instruction's. -/
theorem encode_of_decodeReq {w : ReqWord} {i : Instr} (h : decodeReq w = .ok i) : encode i = .req w := by
  unfold decodeReq at h
  split at h
  · cases h
  · rename_i hset
    have hfree : ∀ {op}, w.op = op → w &&& reservedMask op = 0 := fun hop =>
      hop ▸ bne_eq_false_iff_eq.1 (Bool.eq_false_of_not_eq_true hset)
    split at h
    next hop => cases h; exact congrArg Code.req (packReq_rid hop (hfree hop))
    next hop => cases h; exact congrArg Code.req (packReq_reply hop (hfree hop))
    next hop => cases h; exact congrArg Code.req (packReq_line hop (hfree hop))
    next hop => cases h; exact congrArg Code.req (packReq_rid hop (hfree hop))
    next hop =>
      obtain ⟨hpair, rfl⟩ := ok_of_ite_error h
      exact congrArg Code.req (packDesc_descOf hop (hfree hop) hpair)
    next hop =>
      obtain ⟨hpair, rfl⟩ := ok_of_ite_error h
      exact congrArg Code.req (packDesc_descOf hop (hfree hop) hpair)
    next => cases h

/-- An accepted command is its instruction's: the decoder reads sixteen register ids, each its own row's. -/
theorem encode_of_decodeCmd {c : Bytes3} {i : Instr} (h : decodeCmd c = .ok i) : encode i = .cmd c := by
  obtain ⟨b0, b1, b2⟩ := c
  have hb1 : BitVec.ofNat 8 b1.toNat = b1 := by simp
  unfold decodeCmd at h
  split at h
  · cases h
  next hstart =>
    obtain rfl : b0 = Config.startByte := by simpa using hstart
    split at h
    all_goals cases h
    all_goals
      rename_i hrid
      rw [hrid] at hb1
      subst hb1
      rfl

/-- Settles O4: an accepted code is a request word or a command, and each is its instruction's. -/
theorem acceptedCodeIsTheEncoding : Obligations.AcceptedCodeIsTheEncoding := by
  intro c i h
  cases c with
  | req w =>
    simp only [decode] at h
    split at h
    next hw => cases h; exact encode_of_decodeReq hw
    next => cases h
  | cmd c =>
    simp only [decode] at h
    split at h
    next hc => cases h; exact encode_of_decodeCmd hc
    next => cases h

end Sys2Proof.Machine
end

section
/-! PROOFS. Which words the request decoder refuses (30_encoding.md R87), by the masks of the opcode table: a row's mask is
the operation field and that operation's reserved bits; then O5. -/

namespace Sys2Proof.Machine

/-! ### Masks and fields -/

/-- A field on its own mask. -/
theorem ReqWord.masked_eq_iff (w : ReqWord) {start len : Nat} (hlen : start + len ≤ 32) (v : BitVec len) :
    w &&& (BitVec.allOnes len).setWidth 32 <<< start = v.setWidth 32 <<< start ↔ w.extractLsb' start len = v := by
  constructor
  · intro h
    apply BitVec.eq_of_getLsbD_eq
    intro i hi
    have hbit := congrArg (fun v => BitVec.getLsbD v (start + i)) h
    have hlt : start + i < 32 := by omega
    have hi32 : i < 32 := by omega
    simpa [hi, hlt, hi32] using hbit
  · rintro rfl
    apply BitVec.eq_of_getLsbD_eq
    intro i hi
    by_cases hstart : i < start
    · simp [hstart]
    · have hsub : start + (i - start) = i := by omega
      simp [hi, hstart, hsub, Bool.and_comm]

/-- A mask within a larger one. -/
theorem ReqWord.or_and_left (mask mask' : ReqWord) : (mask ||| mask') &&& mask = mask := by
  apply BitVec.eq_of_getLsbD_eq
  intro i _
  rw [BitVec.getLsbD_and, BitVec.getLsbD_or]
  cases mask.getLsbD i <;> simp

/-- A match on two masks that share no bit is a match on each, where the second asks for zeros. -/
theorem ReqWord.and_or_eq_iff {w mask mask' value : ReqWord} (hvalue : value &&& mask = value)
    (hdisjoint : mask &&& mask' = 0) : w &&& (mask ||| mask') = value ↔ w &&& mask = value ∧ w &&& mask' = 0 := by
  constructor
  · intro h
    constructor
    · calc w &&& mask = (w &&& (mask ||| mask')) &&& mask := by rw [BitVec.and_assoc, or_and_left]
        _ = value := by rw [h, hvalue]
    · calc w &&& mask' = (w &&& (mask ||| mask')) &&& mask' := by
            rw [BitVec.and_assoc, BitVec.or_comm, or_and_left]
        _ = value &&& (mask &&& mask') := by rw [h, ← BitVec.and_assoc, hvalue]
        _ = 0 := by rw [hdisjoint]; exact BitVec.and_zero
  · rintro ⟨h, h'⟩
    rw [BitVec.and_or_distrib_left, h, h']
    exact BitVec.or_zero

/-- The operation field on its mask. -/
theorem ReqWord.op_masked_iff (w : ReqWord) (op : BitVec 3) :
    w &&& 0xE0000000 = op.setWidth 32 <<< 29 ↔ ReqWord.op w = op :=
  ReqWord.masked_eq_iff w (start := 29) (by decide) op

/-- The operations of the request format (30_encoding.md R85). -/
def requestOps : List (BitVec 3) := [0, 1, 2, 3, 4, 5]

/-- The other two are reserved. -/
theorem not_mem_requestOps_iff : ∀ op : BitVec 3, op ∉ requestOps ↔ op = 6 ∨ op = 7 := by decide

/-- A row's mask and match: the operation, and zeros in its reserved bits (30_encoding.md R86). -/
def requestRow (op : BitVec 3) : ReqWord × ReqWord := (0xE0000000 ||| reservedMask op, op.setWidth 32 <<< 29)

theorem requestRow_disjoint : ∀ op : BitVec 3, 0xE0000000 &&& reservedMask op = 0 := by decide

theorem requestRow_match : ∀ op : BitVec 3, op.setWidth 32 <<< 29 &&& 0xE0000000 = op.setWidth 32 <<< 29 := by decide

/-- A word matches an operation's row exactly when it has that operation and none of its reserved bits. -/
theorem requestRow_iff (w : ReqWord) (op : BitVec 3) :
    w &&& (requestRow op).1 = (requestRow op).2 ↔ w.op = op ∧ w &&& reservedMask op = 0 :=
  (ReqWord.and_or_eq_iff (requestRow_match op) (requestRow_disjoint op)).trans
    (and_congr_left' (ReqWord.op_masked_iff w op))

/-- A word matches some row exactly when it has an operation of the format and no reserved bit. -/
theorem matches_requestRow_iff (w : ReqWord) :
    (∃ r ∈ requestOps.map requestRow, w &&& r.1 = r.2) ↔ w.op ∈ requestOps ∧ reservedBitIsSet w = false := by
  have hfree : w &&& reservedMask w.op = 0 ↔ reservedBitIsSet w = false := bne_eq_false_iff_eq.symm
  rw [← hfree]
  constructor
  · rintro ⟨_, hrow, h⟩
    obtain ⟨op, hop, rfl⟩ := List.mem_map.1 hrow
    obtain ⟨rfl, h⟩ := (requestRow_iff w op).1 h
    exact ⟨hop, h⟩
  · rintro ⟨hop, h⟩
    exact ⟨_, List.mem_map_of_mem hop, (requestRow_iff w _).2 ⟨rfl, h⟩⟩

/-- A word of the operations with a descriptor that has a pair without `hp`, on the table's masks. -/
theorem pairWithoutHpBit_iff (w : ReqWord) :
    w &&& 0x08000000 = 0 ∧ w &&& 0x0000FF00 ≠ 0 ↔ pairWithoutHpBit w = true := by
  have hhp : w &&& 0x08000000 = if w.hpBit then BitVec.twoPow 32 27 else 0 := BitVec.and_twoPow w 27
  have hpair : w &&& 0x0000FF00 = 0 ↔ w.byte1 = 0 := ReqWord.masked_eq_iff w (start := 8) (by decide) (0 : Byte)
  rw [hhp, Ne, hpair, pairWithoutHpBit]
  have hne : BitVec.twoPow 32 27 ≠ 0#32 := by decide
  cases w.hpBit <;> simp [hne]

/-! ### The decoder's answers -/

/-- A reserved operation has no reserved bits of its own, and is refused for itself. -/
theorem decodeReq_of_reservedOp {w : ReqWord} (hop : w.op = 6 ∨ w.op = 7) : decodeReq w = .error .reservedOp := by
  have hfree : reservedBitIsSet w = false := by
    refine bne_eq_false_iff_eq.2 ?_
    rcases hop with hop | hop <;> rw [hop] <;> exact BitVec.and_zero
  rcases hop with hop | hop <;> rw [decodeReq, hfree, if_neg Bool.false_ne_true, hop] <;> rfl

/-- A word of the format's operations with no reserved bit, and with R86's pair rule kept, decodes. -/
theorem decodeReq_of_accepted {w : ReqWord} (hop : w.op ∈ requestOps) (hfree : reservedBitIsSet w = false)
    (hpair : w.op = 4 ∨ w.op = 5 → pairWithoutHpBit w = false) : ∃ i, decodeReq w = .ok i := by
  by_cases hraw : w.op = 4
  · exact ⟨_, decodeReq_of_op_readRaw hraw hfree (hpair (.inl hraw))⟩
  by_cases hscale : w.op = 5
  · exact ⟨_, decodeReq_of_op_readScale hscale hfree (hpair (.inr hscale))⟩
  simp only [requestOps, List.mem_cons, List.not_mem_nil, or_false, hraw, hscale] at hop
  rcases hop with hop | hop | hop | hop <;> rw [decodeReq, hfree, if_neg Bool.false_ne_true, hop] <;> exact ⟨_, rfl⟩

/-- Everything the request decoder can answer, by the operation, the reserved bits and the pair. -/
theorem decodeReq_cases (w : ReqWord) :
    (w.op ∉ requestOps ∧ decodeReq w = .error .reservedOp) ∨
    (w.op ∈ requestOps ∧ reservedBitIsSet w = true ∧ decodeReq w = .error .reservedBitSet) ∨
    (w.op ∈ requestOps ∧ reservedBitIsSet w = false ∧ ((w.op = 4 ∨ w.op = 5) ∧ pairWithoutHpBit w = true) ∧
      decodeReq w = .error .pairWithoutHp) ∨
    (w.op ∈ requestOps ∧ reservedBitIsSet w = false ∧ ¬ ((w.op = 4 ∨ w.op = 5) ∧ pairWithoutHpBit w = true) ∧
      ∃ i, decodeReq w = .ok i) := by
  by_cases hop : w.op ∈ requestOps
  · cases hset : reservedBitIsSet w with
    | true => exact .inr (.inl ⟨hop, rfl, by rw [decodeReq, hset, if_pos rfl]⟩)
    | false =>
      by_cases hpair : (w.op = 4 ∨ w.op = 5) ∧ pairWithoutHpBit w = true
      · refine .inr (.inr (.inl ⟨hop, rfl, hpair, ?_⟩))
        obtain ⟨hop | hop, hbit⟩ := hpair <;>
          rw [decodeReq, hset, if_neg Bool.false_ne_true, hop, hbit] <;> rfl
      · refine .inr (.inr (.inr ⟨hop, rfl, hpair, decodeReq_of_accepted hop hset fun hdesc => ?_⟩))
        exact Bool.eq_false_of_not_eq_true fun hbit => hpair ⟨hdesc, hbit⟩
  · exact .inl ⟨hop, decodeReq_of_reservedOp ((not_mem_requestOps_iff _).1 hop)⟩

/-- Settles O5: the statement's masks say the operation, the reserved bits and the pair, and by these the decoder gives
each answer in one case. -/
theorem requestDecoderRefusesExactly : Obligations.RequestDecoderRefusesExactly := by
  intro w rows reservedOp matched pairWithoutHp
  have hop : reservedOp ↔ w.op ∉ requestOps :=
    (or_congr (ReqWord.op_masked_iff w 6) (ReqWord.op_masked_iff w 7)).trans (not_mem_requestOps_iff _).symm
  have hmatched : matched ↔ w.op ∈ requestOps ∧ reservedBitIsSet w = false := matches_requestRow_iff w
  have hpair : pairWithoutHp ↔ (w.op = 4 ∨ w.op = 5) ∧ pairWithoutHpBit w = true :=
    and_congr (or_congr (ReqWord.op_masked_iff w 4) (ReqWord.op_masked_iff w 5)) (pairWithoutHpBit_iff w)
  rw [hop, hmatched, hpair]
  rcases decodeReq_cases w with ⟨hop, h⟩ | ⟨hop, hset, h⟩ | ⟨hop, hset, hpair, h⟩ | ⟨hop, hset, hpair, i, h⟩
  · simp [h, hop]
  · simp [h, hop, hset]
  · rw [eq_true hpair]
    simp [h, hop, hset]
  · rw [eq_false hpair]
    simp [h, hop, hset]

end Sys2Proof.Machine
end

section
/-! PROOFS. Request words written out field by field (30_encoding.md R84 to R86, R88): the word is the packed one; then O2
and O1. -/

namespace Sys2Proof.Machine

open Sys2Proof.Laws (packReq_getLsbD)

/-- The word of a descriptor without a pair. -/
theorem packReq_unpaired (op : BitVec 3) (diff : Bool) (p : Byte) :
    packReq op diff false p 0 0 =
      op.setWidth 32 <<< 29 ||| (BitVec.ofBool diff).setWidth 32 <<< 28 ||| p.setWidth 32 <<< 16 := by
  apply BitVec.eq_of_getLsbD_eq
  intro i hi
  rw [packReq_getLsbD]
  interval_cases i <;> simp

/-- The word of a descriptor with a pair: `hp` is 1. -/
theorem packReq_paired (op : BitVec 3) (diff : Bool) (p q : Byte) :
    packReq op diff true p q 0 =
      (op.setWidth 32 <<< 29 ||| 0x08000000) ||| (BitVec.ofBool diff).setWidth 32 <<< 28 ||| p.setWidth 32 <<< 16 |||
        q.setWidth 32 <<< 8 := by
  apply BitVec.eq_of_getLsbD_eq
  intro i hi
  rw [packReq_getLsbD]
  interval_cases i <;> simp

/-- The word of PERFORM_TRANSACTION. -/
theorem decodeReq_performTransaction_word (rid : Byte) :
    decodeReq (0x60000000 ||| rid.setWidth 32) = .ok (.performTransaction rid) := by
  have hword : packReq 3 false false 0 0 rid = 0x60000000 ||| rid.setWidth 32 := packReq_eq_or 3 0 0 rid
  rw [← hword, decodeReq_packReq_performTransaction]

/-- Settles O2: each word is the packed one of its instruction. -/
theorem requestWordsByField : Obligations.RequestWordsByField := by
  refine ⟨decodeReq_performTransaction_word, fun diff p q => ⟨?_, ?_, ?_, ?_⟩⟩
  · exact (congrArg decodeReq (packReq_unpaired 4 diff p)).symm.trans (decodeReq_packDesc_readRaw ⟨diff, p, none⟩)
  · exact (congrArg decodeReq (packReq_paired 4 diff p q)).symm.trans (decodeReq_packDesc_readRaw ⟨diff, p, some q⟩)
  · exact (congrArg decodeReq (packReq_unpaired 5 diff p)).symm.trans (decodeReq_packDesc_readScale ⟨diff, p, none⟩)
  · exact (congrArg decodeReq (packReq_paired 5 diff p q)).symm.trans (decodeReq_packDesc_readScale ⟨diff, p, some q⟩)

/-- Settles O1: nine literal words, by computing the decoder on each. -/
theorem exampleWordsDecode : Obligations.ExampleWordsDecode := by
  unfold Obligations.ExampleWordsDecode
  decide

end Sys2Proof.Machine
end

section
/-! PROOFS. The pure functions: frames (20_memory.md R54), the codec's laws (40_codec.md R104), the mapper (10_state.md R32,
20_memory.md R59, 41_channel_mapper.md R131, R132), the statuses (60_exceptions.md R181), the scale (42_voltage_scaler.md
R160) and the textual form of requests (30_encoding.md R89): O6 to O9, O13 to O17. -/

namespace Sys2Proof.Machine

/-! ### Frames and the codec -/

/-- Bit `i` of a packed frame, byte by byte (20_memory.md R54). -/
theorem pack24_getLsbD (c : Bytes3) (i : Nat) :
    c.pack24.getLsbD i =
      if i < 16 then (if i < 8 then c.b2.getLsbD i else c.b1.getLsbD (i - 8)) else c.b0.getLsbD (i - 16) := by
  rw [Bytes3.pack24, BitVec.getLsbD_append, BitVec.getLsbD_append]

/-- Settles O6: bit by bit, each byte is one of the statement's fields. -/
theorem framePackingPutsFirstByteHighest : Obligations.FramePackingPutsFirstByteHighest := by
  intro c
  have hb0 : c.pack24.extractLsb' 16 8 = c.b0 := by
    apply BitVec.eq_of_getLsbD_eq
    intro i hi
    rw [BitVec.getLsbD_extractLsb', pack24_getLsbD, if_neg (by omega)]
    simp [hi]
  have hb1 : c.pack24.extractLsb' 8 8 = c.b1 := by
    apply BitVec.eq_of_getLsbD_eq
    intro i hi
    rw [BitVec.getLsbD_extractLsb', pack24_getLsbD, if_pos (by omega), if_neg (by omega)]
    simp [hi]
  have hb2 : c.pack24.extractLsb' 0 8 = c.b2 := by
    apply BitVec.eq_of_getLsbD_eq
    intro i hi
    rw [BitVec.getLsbD_extractLsb', pack24_getLsbD, if_pos (by omega), if_pos (by omega)]
    simp [hi]
  exact ⟨hb0, hb1, hb2, by rw [Bytes3.ofPacked, hb0, hb1, hb2]⟩

/-- The register ids of two lines of the contract differ unless line and mode agree (40_codec.md R104). -/
theorem assembleRid_injective {line line' : Byte} {se se' : Bool} (hline : line.toNat ≤ 7) (hline' : line'.toNat ≤ 7)
    (h : assembleRid line se = assembleRid line' se') : line = line' ∧ se = se' := by
  constructor
  · have hfield : line.setWidth 3 = line'.setWidth 3 := by
      rw [← assembleRid_line line se, h, assembleRid_line]
    have hnat := congrArg BitVec.toNat hfield
    rw [BitVec.toNat_setWidth, BitVec.toNat_setWidth, Nat.mod_eq_of_lt (by omega), Nat.mod_eq_of_lt (by omega)] at hnat
    exact BitVec.eq_of_toNat_eq hnat
  · rw [← assembleRid_mode hline se, h, assembleRid_mode hline']

/-- A line of the contract has its register id (40_codec.md R103). -/
theorem registerIdFor_of_le {line : Byte} (h : line.toNat ≤ 7) (se : Bool) :
    registerIdFor line se = some (assembleRid line se) :=
  if_neg (Nat.not_lt.2 h)

/-- A line above 7 has none. -/
theorem registerIdFor_of_lt {line : Byte} (h : 7 < line.toNat) (se : Bool) : registerIdFor line se = none := if_pos h

/-- A sample framed in a reply's two low bytes is decoded again (40_codec.md R104). -/
theorem decodeReply_frame (s : Sample) (b0 : Byte) :
    decodeReply ⟨b0, ((s >>> 8) &&& 0b11).setWidth 8, (s &&& 0xFF).setWidth 8⟩ = s := by
  rw [decodeReply_eq_append]
  apply BitVec.eq_of_getLsbD_eq
  intro i hi
  rw [BitVec.getLsbD_append]
  interval_cases i <;> simp

/-- Settles O9: the id's fields give line and mode back, the sample's append its bits, and the command is written out. -/
theorem codecLaws : Obligations.CodecLaws := by
  refine ⟨fun line line' se se' hline hline' h => ?_, decodeReply_frame, fun _ _ => ⟨rfl, rfl⟩⟩
  rw [registerIdFor_of_le hline, registerIdFor_of_le hline'] at h
  exact assembleRid_injective hline hline' (Option.some.inj h)

/-! ### The mapper -/

theorem validDesc_iff_mem {d : Desc} : validDesc d = true ↔ d ∈ channelTable :=
  ⟨mem_channelTable_of_validDesc, validDesc_of_mem_channelTable d⟩

/-- Settles O13: the formula admits the table's descriptors, and it is the statement's, mode by mode. -/
theorem validExactlyTableEntries : Obligations.ValidExactlyTableEntries := by
  intro d
  refine ⟨validDesc_iff_mem, ?_⟩
  cases hdiff : d.diff <;> simp [validDesc, hdiff]

/-- Settles O14: a valid descriptor's id is that of its primary line and its mode, which the last two show at literals. -/
theorem mapperOperands : Obligations.MapperOperands := by
  refine ⟨fun d hd => ?_, fun d d' hd hd' hprimary hdiff => ?_, by decide, by decide⟩
  · exact ⟨_, ridOf_of_validDesc hd, registerIdFor_of_le (primary_le_of_validDesc hd) _⟩
  · rw [ridOf_of_validDesc hd, ridOf_of_validDesc hd', hprimary, hdiff]

/-- A descriptor with a register id is a table entry (41_channel_mapper.md R131, R134). -/
theorem mem_channelTable_of_ridOf {d : Desc} {rid : Byte} (h : ridOf d = some rid) : d ∈ channelTable :=
  by_contra fun hd => nomatch (ridOf_eq_none_iff.2 hd).symm.trans h

/-- The sixteen register ids of 20_memory.md R59 are those of the table's descriptors, in another order. -/
theorem channelTable_rids :
    (channelTable.map ridOf).Perm (([0x00, 0x10, 0x20, 0x30, 0x40, 0x50, 0x60, 0x70, 0x80, 0x90, 0xA0, 0xB0, 0xC0, 0xD0,
      0xE0, 0xF0] : List Byte).map some) := by decide

/-- Settles O15: a descriptor with an id is in the table, whose sixteen ids these are. -/
theorem mapperProducesSixteenIds : Obligations.MapperProducesSixteenIds := by
  intro rid
  rw [← List.mem_map_of_injective (Option.some_injective _), ← channelTable_rids.mem_iff, List.mem_map]
  exact exists_congr fun d => ⟨fun h => ⟨mem_channelTable_of_ridOf h, h⟩, And.right⟩

/-- The commands of the wire table with any filler: each is the codec's command for its channel's register id, which is the
mapper's for its descriptor (30_encoding.md R76). -/
theorem wireCommands_spec (filler : Byte) :
    ∀ p ∈ wireCommands filler, ridOf p.2.1 = some p.2.2 ∧ encode p.1 = .cmd (encodeCommand filler p.2.2) := by
  simp only [wireCommands, List.forall_mem_cons, List.not_mem_nil, false_imp_iff, implies_true, and_true]
  and_intros <;> rfl

/-- Settles O7: the two literal tables by computing them, and the third part at any filler. -/
theorem channelCommandTable : Obligations.ChannelCommandTable :=
  ⟨by decide, by decide, wireCommands_spec⟩

/-! ### Statuses, scale and text -/

/-- Settles O16: five literal codes. -/
theorem statusCodes : Obligations.StatusCodes := ⟨rfl, rfl, rfl, rfl, rfl⟩

/-- Settles O17: the pair is the millivolts over the exponent 10, and `2 ^ 10` is 1024. -/
theorem scaleDenotesMillivoltsPerLsb : Obligations.ScaleDenotesMillivoltsPerLsb := by
  intro mv s
  have hscale : scaleDenotes mv Config.scaleExp = (mv : ℚ) / 1024 := by
    rw [scaleDenotes]
    norm_num
  refine ⟨mv, Config.scaleExp, rfl, hscale, ?_⟩
  rw [voltageDenotes, hscale, mul_div_assoc]

/-- Settles O8: nine literal lines, by computing the assembler on each. -/
theorem textAssemblesToItsWord : Obligations.TextAssemblesToItsWord := by
  unfold Obligations.TextAssemblesToItsWord
  decide

end Sys2Proof.Machine
end

section
/-! PROOFS. The requests of a ready caller, one by one (40_codec.md R101 to R105, 41_channel_mapper.md R133, R134,
42_voltage_scaler.md R161): O18, O20 to O27. Each is its effect, read off `exec_request_of_ready`. -/

namespace Sys2Proof.Machine

/-! ### The codec's requests -/

/-- Settles O18: the word is the packed one with every other field 0. -/
theorem encodeCommandCompletes : Obligations.EncodeCommandCompletes := by
  refine fun rid => ⟨?_, fun s hs => exec_request_of_ready rfl hs⟩
  have hword : packReq 0 false false 0 0 rid = rid.setWidth 32 := (packReq_eq_or 0 0 0 rid).trans BitVec.zero_or
  rw [← hword, decodeReq_packReq_encodeCommand]

/-- The word of REGISTER_ID_FOR. -/
theorem decodeReq_registerIdFor_word (line : Byte) (se : Bool) :
    decodeReq (0x40000000 ||| line.setWidth 32 <<< 8 ||| (BitVec.ofBool se).setWidth 32) =
      .ok (.registerIdFor line se) := by
  have hse : (if se then (1 : Byte) else 0).setWidth 32 = (BitVec.ofBool se).setWidth 32 := by cases se <;> rfl
  have hword : packReq 2 false false 0 line (if se then 1 else 0) =
      0x40000000 ||| line.setWidth 32 <<< 8 ||| (if se then (1 : Byte) else 0).setWidth 32 := packReq_eq_or 2 0 line _
  rw [← hse, ← hword, decodeReq_packReq_registerIdFor]

/-- R75's formula on numbers: no line of the contract reaches past the byte. -/
theorem assembleRid_toNat {line : Byte} (h : line.toNat ≤ 7) (se : Bool) :
    (assembleRid line se).toNat = ((if se then 1 else 0) <<< 7) ||| (line.toNat <<< 4) := by
  have hline : (line <<< 4).toNat = line.toNat <<< 4 := by
    rw [BitVec.toNat_shiftLeft, Nat.mod_eq_of_lt]
    rw [Nat.shiftLeft_eq]
    omega
  rw [assembleRid, BitVec.toNat_or, hline]
  cases se <;> rfl

/-- Settles O20: the request's effect, at a line that has a register id and at one that has none. -/
theorem registerIdForCompletesOrIsRefused : Obligations.RegisterIdForCompletesOrIsRefused := by
  refine fun line se => ⟨decodeReq_registerIdFor_word line se, fun s hs => ⟨fun hline => ?_, fun hline => ?_⟩⟩
  · refine ⟨_, assembleRid_toNat hline se, ?_⟩
    rw [exec_request_of_ready rfl hs]
    simp only [requestEffect, registerIdFor_of_le hline]
    rfl
  · rw [exec_request_of_ready rfl hs]
    simp only [requestEffect, registerIdFor_of_lt hline]

/-- Settles O21. The request's effect is to wait for the lock, whatever the register id. -/
theorem performTransactionIssues : Obligations.PerformTransactionIssues :=
  fun _ _ hs => exec_request_of_ready rfl hs

/-! ### READ_RAW -/

/-- The effect of a READ_RAW whose descriptor has a register id. -/
theorem requestEffect_readRaw {d : Desc} {rid : Byte} (h : ridOf d = some rid) (s : State) :
    requestEffect (.readRaw d) s = .next (s.setPhase s.who (.waitLock rid)) := by
  simp only [requestEffect, h]

/-- Settles O22: a table descriptor is valid, and its id is that of its primary line and its mode. -/
theorem readRawIssuesItsRegister : Obligations.ReadRawIssuesItsRegister := by
  intro d s hs hd
  have hvalid : validDesc d = true := validDesc_of_mem_channelTable d hd
  refine ⟨_, registerIdFor_of_le (primary_le_of_validDesc hvalid) _, ?_⟩
  rw [exec_request_of_ready rfl hs, requestEffect_readRaw (ridOf_of_validDesc hvalid)]

/-- Settles O23: a descriptor outside the table has no id, so the effect is the response. -/
theorem invalidReadRawCompletesAtIssue : Obligations.InvalidReadRawCompletesAtIssue := by
  intro d s hs hd
  rw [exec_request_of_ready rfl hs]
  simp only [requestEffect, ridOf_eq_none_iff.2 hd]
  rfl

/-! ### READ_SCALE -/

/-- A ready caller's READ_SCALE responds to the answer drawn (42_voltage_scaler.md R161). -/
theorem exec_readScale {s : State} (hs : Ready s) (d : Desc) :
    exec (.readScale d) s = .next (s.drawMv.2.respond (scaleResponse s.drawMv.1)) :=
  exec_request_of_ready rfl hs

/-- Past the end of the list the answer is a free value with the parameters' widths (assumption log 3). -/
theorem State.drawMv_of_nil {s : State} (h : s.mvAnswers = []) :
    s.drawMv = (narrowMv s.params (Config.freeMv s.draws), { s with draws := s.draws + 1 }) := by
  simp only [State.drawMv, h]

/-- Settles O24: a listed answer of its width is drawn as it is. -/
theorem readScaleReportsTheRegulator : Obligations.ReadScaleReportsTheRegulator := by
  intro d s answer rest hs hlist hfits
  rw [exec_readScale hs, State.drawMv_of_fits hlist hfits]
  cases answer <;> rfl

/-- Settles O25: with none listed the free value drawn has its width. -/
theorem readScaleCompletesOnFreeAnswers : Obligations.ReadScaleCompletesOnFreeAnswers := by
  intro d s hs hlist
  refine ⟨narrowMv s.params (Config.freeMv s.draws), mvFits_narrowMv _ _, ?_⟩
  rw [exec_readScale hs, State.drawMv_of_nil hlist]
  cases narrowMv s.params (Config.freeMv s.draws) <;> rfl

/-- A READ_SCALE's response has one of two statuses, and neither is INVALID_CHANNEL. -/
theorem scaleResponse_ne_invalidChannel (a : MvAnswer) (v : Value) : scaleResponse a ≠ ⟨.invalidChannel, v⟩ := by
  cases a <;> nofun

/-- Settles O26: no meaning reads the descriptor, and the caller's phase is the response to the answer drawn. -/
theorem readScaleIgnoresItsDescriptor : Obligations.ReadScaleIgnoresItsDescriptor := by
  refine fun d d' s => ⟨rfl, fun t v hs ht hphase => ?_⟩
  rw [exec_readScale hs] at ht
  cases ht
  rw [State.respond, State.drawMv_who, State.phaseOf_setPhase_self] at hphase
  exact scaleResponse_ne_invalidChannel _ v (Phase.done.inj hphase)

/-! ### All six -/

/-- A request gives a next state, or is REGISTER_ID_FOR with a line above 7 and refused for it (40_codec.md R103). -/
theorem requestEffect_total (i : Instr) (s : State) :
    (∃ t, requestEffect i s = .next t) ∨
      ∃ line se, i = .registerIdFor line se ∧ 7 < line.toNat ∧ requestEffect i s = .refused .lineOutOfContract := by
  cases i with
  | registerIdFor line se =>
    by_cases hline : line.toNat ≤ 7
    · exact .inl ⟨_, by simp only [requestEffect, registerIdFor_of_le hline]; rfl⟩
    · have hline : 7 < line.toNat := Nat.lt_of_not_le hline
      exact .inr ⟨line, se, rfl, hline, by simp only [requestEffect, registerIdFor_of_lt hline]⟩
  | readRaw d =>
    cases hrid : ridOf d with
    | none => exact .inl ⟨_, by simp only [requestEffect, hrid]; rfl⟩
    | some rid => exact .inl ⟨_, requestEffect_readRaw hrid s⟩
  | _ => exact .inl ⟨_, rfl⟩

/-- What a request leaves its caller with: waiting, or a response of the parameters' widths. -/
theorem requestEffect_phase {i : Instr} {s t : State} (hi : isRequest i = true) (h : requestEffect i s = .next t) :
    (∃ rid, t.phaseOf s.who = .waitLock rid) ∨ ∃ r, r.fits s.params = true ∧ t.phaseOf s.who = .done r := by
  rcases requestEffect_cases hi h with ⟨rid, rfl⟩ | ⟨r, hfits, rfl, -⟩ | ⟨-, rfl⟩
  · exact .inl ⟨rid, State.phaseOf_setPhase_self _ _ _⟩
  · exact .inr ⟨r, hfits, State.respond_phaseOf_self _ _⟩
  · refine .inr ⟨_, scaleResponse_fits s.drawMv_fits, ?_⟩
    rw [State.respond, State.drawMv_who, State.phaseOf_setPhase_self]

/-- Settles O27: the one refusal is outside the contract, and the effect's phase is one of the two. -/
theorem wellFormedRequestsComplete : Obligations.WellFormedRequestsComplete := by
  intro i s hi hwf hs
  rw [exec_request_of_ready hi hs]
  rcases requestEffect_total i s with ⟨t, ht⟩ | ⟨line, se, rfl, hline, -⟩
  · exact ⟨t, ht, requestEffect_phase hi ht⟩
  · have hline' : line.toNat < 8 := of_decide_eq_true hwf
    omega

end Sys2Proof.Machine
end

section
/-! PROOFS. The wire commands (30_encoding.md R76, 40_codec.md R107): each is the completion of the transfer whose command it
is, and nothing elsewhere; O28, O29 and O47. -/

namespace Sys2Proof.Machine

/-- Whether the caller's outstanding transfer has this command. -/
theorem State.onWire_iff {s : State} {cmd : Bytes3} :
    s.onWire cmd = true ↔ (∃ rid, s.phaseOf s.who = .inXfer rid) ∧ s.xfer = some cmd := by
  unfold State.onWire
  cases s.phaseOf s.who <;> simp

/-- An instruction that is encoded as a command runs as that command's exchange. -/
theorem exec_of_encode_cmd {i : Instr} {cmd : Bytes3} (h : encode i = .cmd cmd) (s : State) :
    exec i s = if s.onWire cmd then completeTransfer s else .next s := by
  have hdecode : decode (.cmd cmd) = .ok i := h ▸ decodeOfEncodeIsTheInstruction i
  refine exec_of_decodeCmd ?_ s
  simp only [decode] at hdecode
  split at hdecode
  next hc => cases hdecode; exact hc
  next => cases hdecode

/-- What is no request is encoded as a command (30_encoding.md R76). -/
theorem encode_of_not_isRequest {i : Instr} (h : isRequest i = false) : ∃ cmd, encode i = .cmd cmd := by
  cases i with
  | encodeCommand _ | decodeReply _ _ _ | registerIdFor _ _ | performTransaction _ | readRaw _ | readScale _ => cases h
  | _ => exact ⟨_, rfl⟩

/-- A listed answer is drawn, in the parameters' width, and leaves the list. -/
theorem State.drawXfer_of_cons {s : State} {a : XferAnswer} {rest : List XferAnswer} (h : s.xferAnswers = a :: rest) :
    s.drawXfer = (narrowXfer s.params a, { s with xferAnswers := rest }) := by
  simp only [State.drawXfer, h]

/-- Past the end of the list the answer is a free value (assumption log 3). -/
theorem State.drawXfer_of_nil {s : State} (h : s.xferAnswers = []) :
    s.drawXfer = (narrowXfer s.params (Config.freeXfer s.draws), { s with draws := s.draws + 1 }) := by
  simp only [State.drawXfer, h]

/-- Settles O28: on the wire the command is the completion, with the answer drawn. -/
theorem wireCommandsCompleteTheirTransfer : Obligations.WireCommandsCompleteTheirTransfer := by
  intro filler p hp s rid hx hwire
  obtain ⟨-, hencode⟩ := wireCommands_spec filler p hp
  have hon : s.onWire (encodeCommand filler p.2.2) = true := State.onWire_iff.2 ⟨⟨rid, hx⟩, hwire⟩
  refine ⟨_, s.drawXfer.1, by rw [exec_of_encode_cmd hencode, if_pos hon, completeTransfer_who_eq], s.drawXfer_fits,
    State.phaseOf_setPhase_self _ _ _, ?_, State.setPhase_lock _ _ _, State.setPhase_xfer _ _ _, ?_, ?_, ?_⟩
  · rw [State.setPhase_rx]
    exact rxAfter_rxOf _ _
  · exact (State.setPhase_tx _ _ _).trans s.drawXfer_tx
  · intro a rest hlist
    simp only [State.setPhase_xferAnswers, State.setPhase_draws, State.drawXfer_of_cons hlist]
    exact ⟨trivial, trivial, narrowXfer_of_fits⟩
  · intro hlist
    simp [State.drawXfer_of_nil hlist, hlist]

/-- Settles O29: the command or the transfer is missing, so the command is off the wire. -/
theorem wireCommandsOffTheWireDoNothing : Obligations.WireCommandsOffTheWireDoNothing := by
  intro filler p hp s hoff
  obtain ⟨-, hencode⟩ := wireCommands_spec filler p hp
  rw [exec_of_encode_cmd hencode, if_neg]
  intro hon
  obtain ⟨⟨rid, hx⟩, hwire⟩ := State.onWire_iff.1 hon
  rcases hoff with hne | hnot
  · exact hne hwire
  · exact hnot rid hx

/-- A wire command that gives a next state did nothing, or completed the transfer whose command it is. -/
theorem exec_wireCommand_cases {i : Instr} {s t : State} (hi : isRequest i = false) (h : exec i s = .next t) :
    t = s ∨ ∃ cmd rid, encode i = .cmd cmd ∧ s.phaseOf s.who = .inXfer rid ∧ s.xfer = some cmd ∧
      completeTransfer s = .next t := by
  obtain ⟨cmd, hencode⟩ := encode_of_not_isRequest hi
  rw [exec_of_encode_cmd hencode] at h
  split at h
  next hon =>
    obtain ⟨⟨rid, hx⟩, hwire⟩ := State.onWire_iff.1 hon
    exact .inr ⟨cmd, rid, hencode, hx, hwire, h⟩
  next => cases h; exact .inl rfl

/-- Settles O47: doing nothing keeps everything, and a completion writes `rx` and its caller's phase alone. -/
theorem wireCommandFrame : Obligations.WireCommandFrame := by
  intro i s t hi h
  rcases exec_wireCommand_cases hi h with rfl | ⟨cmd, rid, hencode, hx, hwire, hdone⟩
  · simp
  · rw [completeTransfer_eq] at hdone
    cases hdone
    refine ⟨fun j => by simp, fun c hc => ?_, fun hoff => absurd hwire (hoff cmd rid hencode hx), ?_⟩
    · rw [State.respond_phaseOf_of_ne _ _ (by simpa using hc)]
      exact s.drawXfer_phaseOf c
    · simp

end Sys2Proof.Machine
end

section
/-! PROOFS. The outcomes that are no next state (10_state.md R45, 60_exceptions.md R198): an issue and a detach can be
refused, every other event gives a next state, and nothing faults; O44 and O45. -/

namespace Sys2Proof.Machine

/-- Everything an event can lead to: an issue or a detach may be refused; every event else gives a next state. -/
theorem runEvent_total (e : Event) (u : State) :
    (∃ t, runEvent e u = .next t) ∨ (∃ c w r, e = .issue c w ∧ runEvent e u = .refused r) ∨
      (e = .detach ∧ ∃ r, runEvent e u = .refused r) := by
  cases e with
  | issue c w =>
    rcases issueRequest_cases w { u with who := c } with ⟨-, h⟩ | ⟨-, -, h⟩ | ⟨-, e, -, h⟩ | ⟨-, i, -, -, h⟩
    · exact .inr (.inl ⟨c, w, _, rfl, h⟩)
    · exact .inl ⟨_, h⟩
    · exact .inr (.inl ⟨c, w, _, rfl, h⟩)
    · rcases requestEffect_total i { u with who := c } with ⟨t, ht⟩ | ⟨line, se, -, -, hr⟩
      · exact .inl ⟨t, h.trans ht⟩
      · exact .inr (.inl ⟨c, w, _, rfl, h.trans hr⟩)
  | acquire c =>
    rcases acquireLock_cases c { u with who := c } with h | ⟨rid, -, -, -, h⟩ <;> exact .inl ⟨_, h⟩
  | complete c =>
    rcases completeExchange_cases { u with who := c } with h | ⟨rid, cmd, -, -, h⟩
    · exact .inl ⟨_, h⟩
    · exact .inl ⟨_, h.trans (completeTransfer_eq _)⟩
  | take c => exact .inl ⟨_, rfl⟩
  | attach h =>
    rcases attachDevice_cases h u with ⟨-, h⟩ | ⟨-, code, -, h⟩ | ⟨-, -, h⟩ <;> exact .inl ⟨_, h⟩
  | detach =>
    rcases detachDevice_cases u with ⟨-, h⟩ | ⟨-, -, -, h⟩ | ⟨-, -, h⟩
    · exact .inl ⟨_, h⟩
    · exact .inl ⟨_, h⟩
    · exact .inr (.inr ⟨rfl, _, h⟩)

/-- Settles O45: each outcome of an event is a next state or a refusal. -/
theorem noStepFaults : Obligations.NoStepFaults := by
  intro s f hf
  rw [step_eq_runEvent] at hf
  rcases runEvent_total s.drawEvent.1 s.drawEvent.2 with ⟨t, h⟩ | ⟨c, w, r, -, h⟩ | ⟨-, r, h⟩ <;>
    exact nomatch h.symm.trans hf

/-- Only an issue and a detach are refused. -/
theorem issue_or_detach_of_refused {e : Event} {u : State} {r : Refusal} (h : runEvent e u = .refused r) :
    (∃ c w, e = .issue c w) ∨ e = .detach := by
  rcases runEvent_total e u with ⟨t, ht⟩ | ⟨c, w, _, he, -⟩ | ⟨he, -⟩
  · exact nomatch ht.symm.trans h
  · exact .inl ⟨c, w, he⟩
  · exact .inr he

/-- The refusals of an issue (60_exceptions.md R198). -/
def IssueRefusal (w : ReqWord) (r : Refusal) : Prop :=
  (decodeReq w = .error .reservedOp ∧ r = .reservedOp) ∨
  (decodeReq w = .error .reservedBitSet ∧ r = .reservedBitSet) ∨
  (decodeReq w = .error .pairWithoutHp ∧ r = .pairWithoutHp) ∨
  (∃ line se, decodeReq w = .ok (.registerIdFor line se) ∧ 7 < line.toNat ∧ r = .lineOutOfContract)

/-- A ready caller's word is refused for what the decoder says of it, or for its line. -/
theorem issueRequest_refused_iff_of_ready {s : State} {w : ReqWord} {r : Refusal} (hs : Ready s) :
    issueRequest w s = .refused r ↔ IssueRefusal w r := by
  cases hw : decodeReq w with
  | error e =>
    have h : issueRequest w s = .refused (refusalOf e) := by simp only [issueRequest, issueGate_of_ready hs, hw]
    cases e <;> simp [h, hw, IssueRefusal, refusalOf, eq_comm]
  | ok i =>
    rw [issueRequest_of_ok hs hw]
    rcases requestEffect_total i s with ⟨t, h⟩ | ⟨line, se, rfl, hline, h⟩
    · refine iff_of_false (fun hr => nomatch h.symm.trans hr) ?_
      rintro (⟨hw', -⟩ | ⟨hw', -⟩ | ⟨hw', -⟩ | ⟨line, se, hw', hline, -⟩)
      · exact nomatch hw.symm.trans hw'
      · exact nomatch hw.symm.trans hw'
      · exact nomatch hw.symm.trans hw'
      · cases hw.symm.trans hw'
        simp only [requestEffect, registerIdFor_of_lt hline] at h
        cases h
    · simp [h, hw, IssueRefusal, hline, eq_comm]

/-- An issue is refused while detached, and a ready caller's for its word. -/
theorem issueRequest_refused_iff {s : State} {w : ReqWord} {r : Refusal} :
    issueRequest w s = .refused r ↔ (s.life = .detached ∧ r = .notAttached) ∨ (Ready s ∧ IssueRefusal w r) := by
  by_cases hs : Ready s
  · rw [issueRequest_refused_iff_of_ready hs]
    simp [hs.1, eq_true hs]
  · rcases issueRequest_cases w s with ⟨hl, h⟩ | ⟨hl, -, h⟩ | ⟨hready, -⟩ | ⟨hready, -⟩
    · simp [h, hl, eq_comm]
    · simp [h, hl, hs]
    · exact absurd hready hs
    · exact absurd hready hs

/-- A detach is refused while anything is outstanding (92_eei_decisions.md D19). -/
theorem detachDevice_refused_iff {s : State} {r : Refusal} :
    detachDevice s = .refused r ↔
      s.life = .attached ∧ (s.lock ≠ none ∨ ∃ c, s.phaseOf c ≠ .idle) ∧ r = .detachBusy := by
  rcases detachDevice_cases s with ⟨hl, h⟩ | ⟨hl, hlock, hidle, h⟩ | ⟨hl, hbusy, h⟩
  · simp [h, hl]
  · simp [h, hlock, hidle]
  · rw [h, eq_true hbusy]
    simp [hl, eq_comm]

/-- Everything that is refused, event by event (60_exceptions.md R198). -/
theorem runEvent_refused_iff {e : Event} {u : State} {r : Refusal} :
    runEvent e u = .refused r ↔
      (∃ c w, e = .issue c w ∧ u.life = .detached ∧ r = .notAttached) ∨
      (∃ c w, e = .issue c w ∧ ReadyFor u c ∧ IssueRefusal w r) ∨
      (e = .detach ∧ u.life = .attached ∧ (u.lock ≠ none ∨ ∃ c, u.phaseOf c ≠ .idle) ∧ r = .detachBusy) := by
  cases e with
  | issue c w =>
    have h : runEvent (.issue c w) u = .refused r ↔
        (u.life = .detached ∧ r = .notAttached) ∨ (ReadyFor u c ∧ IssueRefusal w r) := issueRequest_refused_iff
    rw [h]
    constructor
    · rintro (h | h)
      · exact .inl ⟨c, w, rfl, h⟩
      · exact .inr (.inl ⟨c, w, rfl, h⟩)
    · rintro (⟨_, _, ⟨⟩, h⟩ | ⟨_, _, ⟨⟩, h⟩ | ⟨⟨⟩, -⟩)
      · exact .inl h
      · exact .inr h
  | detach =>
    have h : runEvent .detach u = .refused r ↔ _ := detachDevice_refused_iff
    rw [h]
    simp
  | acquire c | complete c | take c | attach hd =>
    refine iff_of_false (fun hr => ?_) (by simp)
    obtain ⟨_, _, ⟨⟩⟩ | ⟨⟨⟩⟩ := issue_or_detach_of_refused hr

/-- Settles O44: drawing the event changes nothing that a refusal depends on. -/
theorem refusedExactlyAsListed : Obligations.RefusedExactlyAsListed := by
  intro s r
  rw [step_eq_runEvent, runEvent_refused_iff]
  simp only [ReadyFor, IssueRefusal, State.drawEvent_life, State.drawEvent_nCallers, State.drawEvent_phaseOf,
    State.drawEvent_lock]

end Sys2Proof.Machine
end

section
/-! PROOFS. The steps of a transaction (40_codec.md R106, R107, 20_memory.md R62) and the take (10_state.md R27), each from
its event at the head of the agenda: O30, O31, O32 and O36. -/

namespace Sys2Proof.Machine

/-- Settles O30: the enabled acquire step, its transfer's bytes those read back from `tx`. -/
theorem acquireStep : Obligations.AcquireStep := by
  intro s c rid rest hagenda hlife hwait hfree
  refine ⟨_, memRead3_memWrite3 .tx s.tx _, ?_⟩
  rw [step_of_acquire hagenda]
  exact acquireLock_of_enabled hlife hwait hfree

/-- A caller's attempt at a held lock does nothing (20_memory.md R62). -/
theorem acquireLock_of_held {s : State} {d : CallerId} (h : s.lock = some d) (c : CallerId) :
    acquireLock c s = .next s := by
  rcases acquireLock_cases c s with e | ⟨rid, -, -, hfree, -⟩
  · exact e
  · exact nomatch h.symm.trans hfree

/-- Settles O31: the free lock is O30's, and at a held one the attempt does nothing. -/
theorem anyWaiterTakesOnlyAFreeLock : Obligations.AnyWaiterTakesOnlyAFreeLock := by
  intro s c rid rest hagenda hlife hwait
  constructor
  · intro hfree
    obtain ⟨tx, -, hstep⟩ := acquireStep s c rid rest hagenda hlife hwait hfree
    exact ⟨_, hstep, State.setPhase_lock _ _ _, State.phaseOf_setPhase_self _ _ _⟩
  · intro d hheld
    rw [step_of_acquire hagenda]
    exact acquireLock_of_held (s := { s with agenda := rest, who := c }) hheld c

/-- The completion step of a caller whose transfer has its command on the wire. -/
theorem step_of_complete_outstanding {s : State} {c : CallerId} {rid : Byte} {cmd : Bytes3} {rest : List Event}
    {answer : XferAnswer} {u : State} (hagenda : s.agenda = .complete c :: rest) (hx : s.phaseOf c = .inXfer rid)
    (hwire : s.xfer = some cmd) (hdraw : State.drawXfer { s with agenda := rest, who := c } = (answer, u)) :
    step s = .next (({ u with rx := rxOf s.rx answer, lock := none, xfer := none }).respond
      (transactionResponse answer)) := by
  rw [step_of_complete hagenda, completeExchange_of_outstanding (s := { s with agenda := rest, who := c }) hx hwire,
    completeTransfer_eq, hdraw]

/-- Settles O32: the completion step at each draw; the invariant puts the command on the wire. -/
theorem completionStep : Obligations.CompletionStep := by
  intro s c rid rest answers hs hagenda hx
  obtain ⟨hwire, -⟩ := hs.wireCommand c rid hx
  refine ⟨fun reply hlist => ?_, fun code hcode hlist => ?_, fun hlist => ?_⟩
  · refine ⟨_, memRead3_memWrite3 .rx s.rx reply, ?_⟩
    exact step_of_complete_outstanding hagenda hx hwire
      (State.drawXfer_of_fits (s := { s with agenda := rest, who := c }) hlist rfl)
  · exact step_of_complete_outstanding hagenda hx hwire
      (State.drawXfer_of_fits (s := { s with agenda := rest, who := c }) hlist (decide_eq_true hcode))
  · refine ⟨narrowXfer s.params (Config.freeXfer s.draws), _, xferFits_narrowXfer _ _, rxAfter_rxOf s.rx _, ?_⟩
    exact step_of_complete_outstanding hagenda hx hwire
      (State.drawXfer_of_nil (s := { s with agenda := rest, who := c }) hlist)

/-- Settles O36: everything a take can do. -/
theorem takeStep : Obligations.TakeStep := by
  intro s c rest hagenda
  rw [step_of_take hagenda]
  rcases takeResponse_cases c { s with agenda := rest, who := c } with ⟨r, hdone, e⟩ | ⟨hnot, e⟩ <;> rw [e]
  · exact ⟨fun _ _ => rfl, fun hnot => absurd hdone (hnot r)⟩
  · exact ⟨fun r hdone => absurd hdone (hnot r), fun _ => rfl⟩

end Sys2Proof.Machine
end

section
/-! PROOFS. Uninterrupted runs (40_codec.md R105 to R108, 41_channel_mapper.md R133, 20_memory.md R63): a request that waits
for a free lock, its acquire and its completion, once for both requests; then O33, O34 and O35. -/

namespace Sys2Proof.Machine

/-- What a completed transaction of caller `c` leaves of the state `s` it began in. -/
structure TransactionDone (s : State) (c : CallerId) (rid : Byte) (answer : XferAnswer) (answers : List XferAnswer)
    (rest : List Event) (t : State) : Prop where
  life : t.life = s.life
  params : t.params = s.params
  phase : t.phaseOf c = .done (transactionResponse answer)
  others : ∀ d, d ≠ c → t.phaseOf d = s.phaseOf d
  tx : memRead3 .tx t.tx = .ok (encodeCommand s.params.fillerByte rid)
  rx : t.rx = rxOf s.rx answer
  lock : t.lock = none
  xfer : t.xfer = none
  xferAnswers : t.xferAnswers = answers
  agenda : t.agenda = rest

/-- A waiting caller's acquire and completion: the state in between has the transfer outstanding and no answer used. -/
theorem run_acquire_complete {s : State} {c : CallerId} {rid : Byte} {rest : List Event} {answer : XferAnswer}
    {answers : List XferAnswer} (hlife : s.life = .attached) (hwait : s.phaseOf c = .waitLock rid)
    (hfree : s.lock = none) (hagenda : s.agenda = .acquire c :: .complete c :: rest)
    (hlist : s.xferAnswers = answer :: answers) (hfits : xferFits s.params answer = true) :
    ∃ m t, step s = .next m ∧
      (m.xfer = some (encodeCommand s.params.fillerByte rid) ∧ m.lock = some c ∧ m.xferAnswers = s.xferAnswers) ∧
      step m = .next t ∧ TransactionDone s c rid answer answers rest t := by
  obtain ⟨tx, htx, hacquire⟩ := acquireStep s c rid _ hagenda hlife hwait hfree
  refine ⟨_, _, hacquire, ⟨State.setPhase_xfer _ _ _, State.setPhase_lock _ _ _, State.setPhase_xferAnswers _ _ _⟩,
    step_of_complete_outstanding (rest := rest) (State.setPhase_agenda _ _ _) (State.phaseOf_setPhase_self _ _ _)
      (State.setPhase_xfer _ _ _)
      (State.drawXfer_of_fits ((State.setPhase_xferAnswers _ _ _).trans hlist) (by simpa using hfits)), ?_⟩
  constructor
  case phase => exact State.respond_phaseOf_self _ _
  case others =>
    intro d hd
    rw [State.respond_phaseOf_of_ne _ _ hd]
    exact State.phaseOf_setPhase_of_ne _ hd _
  case tx =>
    simp only [State.respond_tx, State.setPhase_tx]
    exact htx
  all_goals simp

/-- The issue step of a request whose effect is to wait for the lock. -/
theorem step_of_issue_waits {s : State} {c : CallerId} {w : ReqWord} {i : Instr} {rid : Byte} {rest : List Event}
    (hagenda : s.agenda = .issue c w :: rest) (hready : ReadyFor s c) (hw : decodeReq w = .ok i)
    (hwaits : ∀ u : State, requestEffect i u = .next (u.setPhase u.who (.waitLock rid))) :
    step s = .next (State.setPhase { s with agenda := rest, who := c } c (.waitLock rid)) := by
  rw [step_of_issue hagenda, issueRequest_of_ok (s := { s with agenda := rest, who := c }) hready hw, hwaits]

/-- The uninterrupted run of such a request on a free lock: after two steps the transfer is outstanding, after three the
transaction is done. -/
theorem run_transaction {s : State} {c : CallerId} {w : ReqWord} {i : Instr} {rid : Byte} {rest : List Event}
    {answer : XferAnswer} {answers : List XferAnswer} (hready : ReadyFor s c) (hfree : s.lock = none)
    (hw : decodeReq w = .ok i) (hwaits : ∀ u : State, requestEffect i u = .next (u.setPhase u.who (.waitLock rid)))
    (hagenda : s.agenda = .issue c w :: .acquire c :: .complete c :: rest) (hlist : s.xferAnswers = answer :: answers)
    (hfits : xferFits s.params answer = true) :
    (∃ m, Sys2Proof.core.run 2 s = .next m ∧ m.xfer = some (encodeCommand s.params.fillerByte rid) ∧
      m.lock = some c ∧ m.xferAnswers = s.xferAnswers) ∧
    ∃ t, Sys2Proof.core.run 3 s = .next t ∧ TransactionDone s c rid answer answers rest t := by
  have hissue := step_of_issue_waits hagenda hready hw hwaits
  obtain ⟨m, t, hacquire, ⟨hxfer, hlock, hanswers⟩, hcomplete, hdone⟩ := run_acquire_complete
    (s := State.setPhase { s with agenda := .acquire c :: .complete c :: rest, who := c } c (.waitLock rid))
    ((State.setPhase_life _ _ _).trans hready.1) (State.phaseOf_setPhase_self _ _ _)
    ((State.setPhase_lock _ _ _).trans hfree) (State.setPhase_agenda _ _ _)
    ((State.setPhase_xferAnswers _ _ _).trans hlist) (by simpa using hfits)
  refine ⟨⟨m, ?_, by simpa using hxfer, hlock, by simpa using hanswers⟩, t, ?_, ?_⟩
  · rw [run_succ_of_next hissue, run_succ_of_next hacquire, run_zero]
  · rw [run_succ_of_next hissue, run_succ_of_next hacquire, run_succ_of_next hcomplete, run_zero]
  · exact {
      life := by simpa using hdone.life
      params := by simpa using hdone.params
      phase := hdone.phase
      others := fun d hd => (hdone.others d hd).trans (State.phaseOf_setPhase_of_ne _ hd _)
      tx := by simpa using hdone.tx
      rx := by simpa using hdone.rx
      lock := hdone.lock
      xfer := hdone.xfer
      xferAnswers := hdone.xferAnswers
      agenda := hdone.agenda }

/-- The reply buffer of a completed transaction reads as its answer leaves it. -/
theorem TransactionDone.rxAfter {s t : State} {c : CallerId} {rid : Byte} {answer : XferAnswer}
    {answers : List XferAnswer} {rest : List Event} (h : TransactionDone s c rid answer answers rest t) :
    rxAfter t.rx answer := by
  rw [h.rx]
  exact rxAfter_rxOf _ _

/-- Settles O33: the run of a PERFORM_TRANSACTION, whose effect waits at any register id. -/
theorem performTransactionRuns : Obligations.PerformTransactionRuns := by
  intro s c rid rest answer answers hready hfree hagenda hlist hfits
  obtain ⟨hmid, t, hrun, hdone⟩ := run_transaction hready hfree (decodeReq_performTransaction_word rid)
    (fun _ => rfl) hagenda hlist hfits
  exact ⟨hmid, t, hrun, hdone.phase, hdone.tx, hdone.rxAfter, hdone.lock, hdone.xfer, hdone.xferAnswers, hdone.agenda,
    hdone.others⟩

/-- The register id of a table descriptor is that of its primary line and its mode. -/
theorem ridOf_of_mem_channelTable {d : Desc} {rid : Byte} (hd : d ∈ channelTable)
    (hrid : registerIdFor d.primary (!d.diff) = some rid) : ridOf d = some rid := by
  have hvalid : validDesc d = true := validDesc_of_mem_channelTable d hd
  rw [ridOf_of_validDesc hvalid, ← registerIdFor_of_le (primary_le_of_validDesc hvalid), hrid]

/-- Settles O34: the run of a READ_RAW, whose effect waits at its descriptor's register id. -/
theorem readRawRuns : Obligations.ReadRawRuns := by
  intro s c w d rid rest answer answers hready hfree hw hd hrid hagenda hlist hfits
  obtain ⟨-, t, hrun, hdone⟩ := run_transaction hready hfree hw
    (requestEffect_readRaw (ridOf_of_mem_channelTable hd hrid)) hagenda hlist hfits
  exact ⟨t, hrun, hdone.phase, hdone.tx, hdone.rxAfter, hdone.lock, hdone.xfer, hdone.xferAnswers, hdone.agenda,
    hdone.others⟩

/-- A run in two parts. -/
theorem run_add_of_next {k n : Nat} {s t : State} (h : Sys2Proof.core.run k s = .next t) :
    Sys2Proof.core.run (k + n) s = Sys2Proof.core.run n t := by
  induction k generalizing s with
  | zero => cases h; rw [Nat.zero_add]
  | succ k ih =>
    obtain ⟨s', hstep, hrun⟩ := run_succ_cases h
    rw [Nat.add_right_comm, run_succ_of_next hstep, ih hrun]

/-- Settles O35: the failed transaction leaves the lock free and its caller attached; the take makes it ready, so the next
transaction runs as the first did. -/
theorem failureThenRecovery : Obligations.FailureThenRecovery := by
  intro s c w d rest code reply answers hready hfree hw hd hagenda hlist hcode
  have hvalid : validDesc d = true := validDesc_of_mem_channelTable d hd
  have hwaits := requestEffect_readRaw (ridOf_of_validDesc hvalid)
  obtain ⟨-, t, hrun, hfailed⟩ := run_transaction hready hfree hw hwaits hagenda hlist (decide_eq_true hcode)
  obtain ⟨htake, -⟩ := takeStep t c _ hfailed.agenda
  have htake := htake _ hfailed.phase
  have hidle := (run_add_of_next (n := 1) hrun).trans (run_succ_of_next (k := 0) htake)
  obtain ⟨hlife, hc, -⟩ := hready
  have hready' : ReadyFor (State.setPhase { t with
      agenda := .issue c w :: .acquire c :: .complete c :: rest, who := c } c .idle) c := by
    refine ⟨by simpa using hfailed.life.trans hlife, ?_, State.phaseOf_setPhase_self _ _ _⟩
    simpa only [State.nCallers, State.setPhase_params, hfailed.params] using hc
  obtain ⟨-, t', hrun', hdone⟩ := run_transaction (answer := .ok reply) hready'
    ((State.setPhase_lock _ _ _).trans hfailed.lock) hw hwaits (State.setPhase_agenda _ _ _)
    ((State.setPhase_xferAnswers _ _ _).trans hfailed.xferAnswers) rfl
  refine ⟨⟨t, hrun, hfailed.phase, hfailed.lock, hfailed.rx⟩, ⟨_, hidle, hready'.2.2⟩, t', ?_, hdone.phase, hdone.lock,
    hdone.rxAfter⟩
  exact (run_add_of_next (n := 3) hidle).trans hrun'

end Sys2Proof.Machine
end

section
/-! PROOFS. Attach, detach and reset (70_reset_and_hazards.md R221, R223, R224, 10_state.md R45): O37 to O40. -/

namespace Sys2Proof.Machine

/-- A listed success is drawn, and leaves the list. -/
theorem State.drawEnable_of_ok {s : State} {rest : List EnableAnswer} (h : s.enableAnswers = .ok :: rest) :
    s.drawEnable = (.ok, { s with enableAnswers := rest }) := by
  simp only [State.drawEnable, h, narrowEnable]

/-- Past the end of the list an answer is a free value (assumption log 3), and counts as drawn. -/
theorem State.drawEnable_draws_of_nil {s : State} (h : s.enableAnswers = []) : s.drawEnable.2.draws = s.draws + 1 := by
  simp only [State.drawEnable, h]

/-- A detached device's attach, where the regulator is enabled. -/
theorem attachDevice_of_ok {s s' : State} (hlife : s.life = .detached) (hdraw : s.drawEnable = (.ok, s')) (h : Handles) :
    attachDevice h s = .next (attachedState h s') := by
  simp only [attachDevice, hlife, hdraw, attachedState]

/-- A detached device's attach, where the regulator is not. -/
theorem attachDevice_of_err {s s' : State} {code : RegulatorCode} (hlife : s.life = .detached)
    (hdraw : s.drawEnable = (.err code, s')) (h : Handles) :
    attachDevice h s = .next { s' with attachError := some code } := by
  simp only [attachDevice, hlife, hdraw]

/-- Settles O38: the attach step at each draw. -/
theorem attachStep : Obligations.AttachStep := by
  intro s h rest answers hagenda hlife
  rw [step_of_attach hagenda]
  refine ⟨fun hlist => ?_, fun code hcode hlist => ⟨_, ?_, rfl, rfl⟩, fun hlist => ?_⟩
  · exact attachDevice_of_ok (s := { s with agenda := rest }) hlife (State.drawEnable_of_ok hlist) h
  · exact attachDevice_of_err (s := { s with agenda := rest }) hlife (State.drawEnable_of_lt hlist hcode) h
  · have hdraws := State.drawEnable_draws_of_nil (s := { s with agenda := rest }) hlist
    rcases attachDevice_cases h { s with agenda := rest } with ⟨hl, -⟩ | ⟨-, code, -, hnext⟩ | ⟨-, -, hnext⟩
    · exact nomatch hlife.symm.trans hl
    · exact ⟨_, hnext, hdraws, .inr ⟨(State.drawEnable_life _).trans hlife, code, rfl⟩⟩
    · exact ⟨_, hnext, hdraws, .inl ⟨rfl, rfl, rfl⟩⟩

/-- A device with nothing outstanding detaches. -/
theorem detachDevice_of_idle {s : State} (hlife : s.life = .attached) (hfree : s.lock = none)
    (hidle : ∀ c, s.phaseOf c = .idle) : detachDevice s = .next (detachedState s) := by
  rcases detachDevice_cases s with ⟨hl, -⟩ | ⟨-, -, -, h⟩ | ⟨-, hbusy, -⟩
  · exact nomatch hlife.symm.trans hl
  · exact h
  · rcases hbusy with hheld | ⟨c, hc⟩
    · exact absurd hfree hheld
    · exact absurd (hidle c) hc

/-- Settles O39: the detach where nothing is outstanding, and its refusal. -/
theorem detachStep : Obligations.DetachStep := by
  intro s rest hagenda hlife
  rw [step_of_detach hagenda]
  refine ⟨fun hfree hidle => ?_, fun hbusy => ?_⟩
  · exact detachDevice_of_idle (s := { s with agenda := rest }) hlife hfree hidle
  · exact detachDevice_refused_iff.2 ⟨hlife, .inr hbusy, rfl⟩

/-- Settles O40: O39's state, then O38's, in which every field of the device is written anew. -/
theorem nothingSurvivesDetach : Obligations.NothingSurvivesDetach := by
  intro s h rest answers hagenda hlife hfree hidle hlist
  obtain ⟨hdetach, -⟩ := detachStep s _ hagenda hlife
  obtain ⟨hattach, -⟩ := attachStep (detachedState { s with agenda := .attach h :: rest }) h rest answers rfl rfl
  refine ⟨_, (run_succ_of_next (hdetach hfree hidle)).trans (run_succ_of_next (k := 0) (hattach hlist)), ?_⟩
  exact ⟨rfl, rfl, fun _ => rfl, fun _ => rfl, fun _ => rfl, rfl, rfl⟩

/-- Settles O37: each field as the reset state writes it. -/
theorem resetIsTheAttachedState : Obligations.ResetIsTheAttachedState :=
  ⟨rfl, rfl, fun _ => rfl, fun _ => rfl, fun _ => rfl, rfl, rfl⟩

end Sys2Proof.Machine
end

section
/-! PROOFS. The step as the run of an instruction, and the issues that run none (60_exceptions.md R197, 10_state.md R22,
R36): O41, O42 and O43. -/

namespace Sys2Proof.Machine

/-- Settles O41: the gate is shut, before the word is decoded. -/
theorem detachedRefusesEveryRequest : Obligations.DetachedRefusesEveryRequest := by
  refine fun s hlife => ⟨fun i hi => ?_, fun c w rest hagenda => ?_⟩
  · rw [exec_request hi, issueGate_of_detached hlife]
  · rw [step_of_issue hagenda]
    exact issueRequest_refused_iff.2 (.inl ⟨hlife, rfl⟩)

/-- Settles O42: an issue runs the decoded request, and a completion is what the decoded command does on the wire. -/
theorem stepRunsTheDecodedInstruction : Obligations.StepRunsTheDecodedInstruction := by
  constructor
  · intro s c w rest i hagenda hready hw
    have hready : Ready { s with agenda := rest, who := c } := hready
    rw [step_of_issue hagenda, issueRequest_of_ok hready hw, exec_request_of_ready (isRequest_of_decodeReq hw) hready]
  · intro s c cmd rid rest i hagenda hx hwire hdecode
    have hx : State.phaseOf { s with agenda := rest, who := c } c = .inXfer rid := hx
    have hon : State.onWire { s with agenda := rest, who := c } cmd = true := State.onWire_iff.2 ⟨⟨rid, hx⟩, hwire⟩
    rw [step_of_complete hagenda, completeExchange_of_outstanding hx hwire, exec_of_decodeCmd hdecode, if_pos hon]

/-- Settles O43: the gate lets a busy caller's issue pass without effect. -/
theorem busyCallerIssuesNothing : Obligations.BusyCallerIssuesNothing := by
  intro s c w rest hagenda hlife hbusy
  rw [step_of_issue hagenda]
  rcases issueRequest_cases w { s with agenda := rest, who := c } with ⟨hl, -⟩ | ⟨-, -, h⟩ | ⟨hr, -⟩ | ⟨hr, -⟩
  · exact nomatch hlife.symm.trans hl
  · exact h
  · exact absurd hr.2.2 hbusy
  · exact absurd hr.2.2 hbusy

end Sys2Proof.Machine
end

section
/-! PROOFS. Several devices (10_state.md R35, 92_eei_decisions.md D24): what replacing one does to each, then O60. -/

namespace Sys2Proof.Machine

@[simp] theorem Instances.count_set (d : Instances) (k : Nat) (s : State) : (d.set k s).count = d.count := by
  cases k with
  | zero => rfl
  | succ k => simp [Instances.set, Instances.count]

/-- A device that exists is the one it is replaced by. -/
theorem Instances.get?_set_self {d : Instances} {k : Nat} {s : State} (h : d.get? k = some s) (t : State) :
    (d.set k t).get? k = some t := by
  cases k with
  | zero => rfl
  | succ k =>
    have hk : k < d.more.length := (List.getElem?_eq_some_iff.1 (by simpa [Instances.get?] using h)).1
    simp [Instances.set, Instances.get?, hk]

/-- Replacing one device leaves every other. -/
theorem Instances.get?_set_of_ne (d : Instances) {j k : Nat} (h : j ≠ k) (t : State) :
    (d.set k t).get? j = d.get? j := by
  cases k with
  | zero =>
    cases j with
    | zero => exact absurd rfl h
    | succ j => rfl
  | succ k =>
    cases j with
    | zero => rfl
    | succ j =>
      have hkj : k ≠ j := by omega
      simp [Instances.set, Instances.get?, hkj]

/-- A step of a device is its own, and replaces it. -/
theorem stepDevice_next {k : Nat} {d d' : Instances} {s : State} (h : d.get? k = some s)
    (hstep : stepDevice k d = .next d') : ∃ t, step s = .next t ∧ d' = d.set k t := by
  simp only [stepDevice, h] at hstep
  split at hstep
  next t ht => cases hstep; exact ⟨t, ht, rfl⟩
  next => cases hstep
  next => cases hstep

/-- Settles O60: the step replaces device `k` by its own next state. -/
theorem devicesAreIndependent : Obligations.DevicesAreIndependent := by
  refine fun k d d' s => ⟨Nat.le_add_left 1 _, fun hk hstep => ?_⟩
  obtain ⟨t, ht, rfl⟩ := stepDevice_next hk hstep
  exact ⟨t, ht, Instances.get?_set_self hk t, Instances.count_set d k t, fun j hj => Instances.get?_set_of_ne d hj t⟩

end Sys2Proof.Machine
end
